-- ==== Sys2Proof/Word.lean ====
section
/-! DEFINITION. The word type of the PQT block (spec/00_scope.md R10). -/
namespace Sys2Proof

/-- A 32-bit word; bit 0 is the least significant (R10). -/
abbrev Word := BitVec 32

end Sys2Proof
end

