-- ==== Sys2Proof/Syntax.lean ====
section
/-! DEFINITION. The commands of the PQT block and what their operands stand for (spec/30_encoding.md R82 to R85).
One constructor of `Instr` per row of spec/opcode_table.json. -/
namespace Sys2Proof

/-- The four general registers (10_state.md R21). -/
inductive Reg where
  | x0 | x1 | x2 | x3
deriving DecidableEq, Repr

/-- A direction of rotation: `Clockwise` or `CounterClockwise` (10_state.md R33). -/
inductive Dir where
  | cw | ccw
deriving DecidableEq, Repr

/-- The sixteen assigned control registers (10_state.md R23 to R37). -/
inductive Csr where
  | status | refpitch | period | duty | tc | dir | qstate | pinsel | cbcw | cbccw
  | cfgclk | cfgpresc | cfgpmin | cfgpmax | cfgtbl | cfgmisc
deriving DecidableEq, Repr

/-- A note (41_frequency_table.md R140): `Rest`, or a semitone index with an octave number. Equality is structural. -/
inductive Note where
  | rest
  | tone (semitone : Fin 12) (octave : Int)
deriving DecidableEq, Repr

/-- The commands, one constructor per row of spec/opcode_table.json, with the operand fields of R82 as they stand
in the word. A field whose every value is legal is already what it names; `csr`, `name` and `oct` stay raw,
because R86 checks their values (`Instr.illFormed?`). -/
inductive Instr where
  /-- R110. -/
  | nop
  /-- R111: `x[rd] <- imm : 0x0000`. -/
  | ldh (rd : Reg) (imm : BitVec 16)
  /-- R112: `x[rd] <- x[rd][31:16] : imm`. -/
  | ldl (rd : Reg) (imm : BitVec 16)
  /-- R113: respond with `x[rs]`. -/
  | rdx (rs : Reg)
  /-- R114: `x[rd] <- CSR[csr]`. -/
  | rdcsr (rd : Reg) (csr : BitVec 8)
  /-- R135: build the frequency table from `x[rs]`. -/
  | ftbuild (rs : Reg)
  /-- R142: `x[rd] <-` the frequency of a note. -/
  | nres (rd : Reg) (name : BitVec 4) (oct : BitVec 8)
  /-- R165: period and duty of the frequency `x[rs]`, or silence. -/
  | pcalc (rs : Reg)
  /-- R193: initialise the decoder on two pins. -/
  | qinit (pina pinb : BitVec 5)
  /-- R194: attach a callback handle for a direction. -/
  | qatt (dir : Dir) (handle : BitVec 16)
  /-- R195: enable the decoder. -/
  | qen
  /-- R196: disable the decoder. -/
  | qdis
deriving DecidableEq, Repr

end Sys2Proof
end

