-- ==== Sys2Proof/Config.lean ====
section
/-! DEFINITION. What an instance of the block fixes (spec/00_scope.md R6, R9) and the free values: what the spec leaves
unspecified (spec/93_implementation_defined.md U1 to U3, U7; 70_reset_and_hazards.md R302). -/
namespace Sys2Proof

/-- The nine parameters of a block instance (R6). A state carries them as the field `cfg`, which no step changes
(notes/assumptions/1.md). -/
structure Params where
  /-- `N_OCT`: octaves (columns) of the table. -/
  nOct : Nat
  /-- `FIRST_OCT`: octave number of column 0. -/
  firstOct : Int
  /-- `OCT_SHIFT`: reference octave number minus `FIRST_OCT`. -/
  octShift : Nat
  /-- `F_CLK`: timer clock in Hz. -/
  fClk : Nat
  /-- `PRESC`: timer prescaler. -/
  presc : Nat
  /-- `PER_MIN`: smallest timer period. -/
  perMin : Nat
  /-- `PER_MAX`: largest timer period. -/
  perMax : Nat
  /-- `DIR_RESET`: `lastDirection` after reset and after `QINIT`. -/
  dirReset : Dir
  /-- `NPIN`: number of digital inputs. -/
  npin : Nat
deriving DecidableEq, Repr

/-- The legal ranges of R6. -/
abbrev Params.legal (p : Params) : Prop :=
  (1 ≤ p.nOct ∧ p.nOct ≤ 16) ∧
  (-128 ≤ p.firstOct ∧ p.firstOct ≤ 127 ∧ p.firstOct + p.nOct - 1 ≤ 127) ∧
  p.octShift ≤ 15 ∧
  (1 ≤ p.fClk ∧ p.fClk ≤ 2 ^ 32 - 1) ∧
  (1 ≤ p.presc ∧ p.presc ≤ 65535) ∧
  (p.perMin ≤ p.perMax ∧ p.perMax ≤ 2 ^ 32 - 1) ∧
  (1 ≤ p.npin ∧ p.npin ≤ 32)

/-- `CFG-REF` of R9: an example set of the spec, not a claim about any chip. -/
def Config.cfgRef : Params :=
  { nOct := 8, firstOct := 1, octShift := 3, fClk := 16000000, presc := 8, perMin := 1, perMax := 65535,
    dirReset := .cw, npin := 32 }

/-- `CFG-B` of R9. -/
def Config.cfgB : Params :=
  { nOct := 2, firstOct := 0, octShift := 0, fClk := 1000000, presc := 64, perMin := 4, perMax := 255,
    dirReset := .ccw, npin := 8 }

/-- FREE VALUE. The words the spec calls unspecified: a table word nothing has written (U3) and the general registers
after a reset step (R302), picked by the counter `State.free`. No body: nothing can be proved of a value of it
(notes/assumptions/6.md, notes/assumptions/7.md). -/
opaque Config.freeWord : Nat → Word

/-- FREE VALUE. The sample of a pin that does not exist (U7): "a fresh arbitrary bit each time", picked by the counter
`State.free` and the pin index, so that one tick sees one bit for one index (R193; notes/assumptions/10.md). -/
opaque Config.absentPin : Nat → Nat → Bool

/-- FREE VALUE. The word that a build from a zero or absurd pitch leaves in an entry that rounds to 0 or saturates:
"any value" (U1, U2; 93_implementation_defined.md section 2). Picked by the parameters, the pitch, the semitone and the
octave index, because a second build with the same pitch gives the same table (R137; notes/assumptions/9.md). -/
opaque Config.absurdWord : Params → Word → Nat → Nat → Word

end Sys2Proof
end

