-- ==== Sys2Proof/Machine/Operands.lean ====
section
/-! DEFINITION. The operand forms: how an operand field becomes an operand (spec/30_encoding.md R84) and what the numbers
of registers, directions and control registers are (10_state.md R23 to R37). -/
namespace Sys2Proof.Machine

/-- The 2-bit number of a general register (R81). -/
def regBits : Reg → BitVec 2
  | .x0 => 0
  | .x1 => 1
  | .x2 => 2
  | .x3 => 3

/-- The register a 2-bit field names; every value is valid (R84). -/
def regOfBits (b : BitVec 2) : Reg :=
  if b = 0 then .x0 else if b = 1 then .x1 else if b = 2 then .x2 else .x3

/-- `CW = 0`, `CCW = 1` (R33, R84). -/
def dirBit : Dir → BitVec 1
  | .cw => 0
  | .ccw => 1

/-- The direction a 1-bit field names (R84). -/
def dirOfBit (b : BitVec 1) : Dir :=
  if b = 0 then .cw else .ccw

/-- The number of a control register (10_state.md R23, R29 to R37). -/
def csrNumber : Csr → BitVec 8
  | .status => 0x00
  | .refpitch => 0x01
  | .period => 0x02
  | .duty => 0x03
  | .tc => 0x04
  | .dir => 0x05
  | .qstate => 0x06
  | .pinsel => 0x07
  | .cbcw => 0x08
  | .cbccw => 0x09
  | .cfgclk => 0x10
  | .cfgpresc => 0x11
  | .cfgpmin => 0x12
  | .cfgpmax => 0x13
  | .cfgtbl => 0x14
  | .cfgmisc => 0x15

/-- Every assigned control register, in the order of its number. -/
def allCsrs : List Csr :=
  [.status, .refpitch, .period, .duty, .tc, .dir, .qstate, .pinsel, .cbcw, .cbccw,
   .cfgclk, .cfgpresc, .cfgpmin, .cfgpmax, .cfgtbl, .cfgmisc]

/-- The control register an 8-bit number names; `none` for an unassigned number (R39, R84). -/
def csrOfNumber (n : BitVec 8) : Option Csr :=
  allCsrs.find? fun c => csrNumber c == n

/-- The note that the fields `name` and `oct` stand for (R84, R140, R141): `name = 15` with `oct = 0` is `Rest`, `name` 0
to 11 is a semitone index with the signed octave number, everything else is reserved. -/
def noteOfFields (name : BitVec 4) (oct : BitVec 8) : Option Note :=
  if name = 15 ∧ oct.toInt = 0 then some .rest
  else if h : name.toNat < 12 then some (.tone ⟨name.toNat, h⟩ oct.toInt)
  else none

/-- `clamp(v, lo, hi) = min(max(v, lo), hi)` on mathematical integers (00_scope.md R11). -/
def clampInt (v lo hi : Int) : Int := min (max v lo) hi

/-- The octave index of an octave number, clamped to the table (41_frequency_table.md R143). -/
def octaveIndex (p : Params) (octave : Int) : Nat :=
  (clampInt (octave - p.firstOct) 0 (p.nOct - 1)).toNat

/-- The table's word index of a semitone index and an octave index (20_memory.md R61). -/
def tableIndex (semitone octIdx : Nat) : Nat := 12 * octIdx + semitone

/-- The number of words of the table (R38). -/
def tableSize (p : Params) : Nat := 12 * p.nOct

end Sys2Proof.Machine
end

