-- ==== Sys2Proof/WellFormed.lean ====
section
/-! DEFINITION. The value checks a command must pass beyond its form (spec/30_encoding.md R86, R87). -/
namespace Sys2Proof

/-- Why a command of a right form is still illegal (R86). -/
inductive IllFormed where
  /-- `RDCSR` of an unassigned control register number. -/
  | unassignedCsr
  /-- `NRES` with `name` 12, 13, 14, or 15 with `oct` not 0. -/
  | reservedNote
deriving DecidableEq, Repr

/-- The value check a command fails, if any (R86). -/
def Instr.illFormed? : Instr → Option IllFormed
  | .nop => none
  | .ldh _ _ => none
  | .ldl _ _ => none
  | .rdx _ => none
  | .rdcsr _ csr => if (Machine.csrOfNumber csr).isSome then none else some .unassignedCsr
  | .ftbuild _ => none
  | .nres _ name oct => if (Machine.noteOfFields name oct).isSome then none else some .reservedNote
  | .pcalc _ => none
  | .qinit _ _ => none
  | .qatt _ _ => none
  | .qen => none
  | .qdis => none

/-- A command every value check of R86 passes. -/
abbrev Instr.wellFormed (i : Instr) : Prop := i.illFormed? = none

end Sys2Proof
end

