-- ==== Sys2Proof/Decode.lean ====
section
/-! DEFINITION. Decoding a command word (spec/30_encoding.md R81 to R88), total on all 2^32 words, and encoding a command
(R82). A command word has no byte order of its own (20_memory.md R63): the decoder takes the word. -/
namespace Sys2Proof

/-- The operation a row of R85 names. -/
inductive Op where
  | nop | ldh | ldl | rdx | rdcsr | ftbuild | nres | pcalc | qinit | qatt | qen | qdis
deriving DecidableEq, Repr

/-- One row of the opcode map (R85): a word `w` has the row's form when `w & mask = pattern` (R83). -/
structure OpRow where
  op : Op
  pattern : Word
  mask : Word
deriving DecidableEq, Repr

/-- The opcode map of R85, `match` and `mask` of each row. -/
def opcodeMap : List OpRow :=
  [ ⟨.nop,     0x00000000#32, 0xFFFFFFFF#32⟩,
    ⟨.ldh,     0x01000000#32, 0xFF3F0000#32⟩,
    ⟨.ldl,     0x02000000#32, 0xFF3F0000#32⟩,
    ⟨.rdx,     0x03000000#32, 0xFFCFFFFF#32⟩,
    ⟨.rdcsr,   0x04000000#32, 0xFF3FFF00#32⟩,
    ⟨.ftbuild, 0x10000000#32, 0xFFCFFFFF#32⟩,
    ⟨.nres,    0x11000000#32, 0xFF3FF000#32⟩,
    ⟨.pcalc,   0x12000000#32, 0xFFCFFFFF#32⟩,
    ⟨.qinit,   0x20000000#32, 0xFFFFE0E0#32⟩,
    ⟨.qatt,    0x21000000#32, 0xFFEF0000#32⟩,
    ⟨.qen,     0x22000000#32, 0xFFFFFFFF#32⟩,
    ⟨.qdis,    0x23000000#32, 0xFFFFFFFF#32⟩ ]

/-- Why a word is illegal (R87). -/
inductive DecodeError where
  /-- The opcode is assigned to no command (R88). -/
  | unassignedOpcode
  /-- The opcode is assigned, and a must-be-zero bit of its format is 1 (R83). -/
  | mustBeZero
  /-- The form is a command's, and a value check fails (R86). -/
  | illFormed (why : IllFormed)
deriving DecidableEq, Repr

/-- `op`, bits 31 to 24 (R81). -/
def opField (w : Word) : BitVec 8 := w.extractLsb' 24 8

/-- `rd`, bits 23 to 22 (R81). -/
def rdField (w : Word) : Reg := Machine.regOfBits (w.extractLsb' 22 2)

/-- `rs`, bits 21 to 20 (R81). -/
def rsField (w : Word) : Reg := Machine.regOfBits (w.extractLsb' 20 2)

/-- `imm`, bits 15 to 0 (R81); also the `handle` of format `A`. -/
def immField (w : Word) : BitVec 16 := w.extractLsb' 0 16

/-- The command a word of a row's form stands for: the fields of the row's format (R82). -/
def fieldsOf (op : Op) (w : Word) : Instr :=
  match op with
  | .nop => .nop
  | .ldh => .ldh (rdField w) (immField w)
  | .ldl => .ldl (rdField w) (immField w)
  | .rdx => .rdx (rsField w)
  | .rdcsr => .rdcsr (rdField w) (w.extractLsb' 0 8)
  | .ftbuild => .ftbuild (rsField w)
  | .nres => .nres (rdField w) (w.extractLsb' 8 4) (w.extractLsb' 0 8)
  | .pcalc => .pcalc (rsField w)
  | .qinit => .qinit (w.extractLsb' 0 5) (w.extractLsb' 8 5)
  | .qatt => .qatt (Machine.dirOfBit (w.extractLsb' 20 1)) (immField w)
  | .qen => .qen
  | .qdis => .qdis

/-- The row whose form a word has, if any (R86). -/
def rowOf (w : Word) : Option OpRow :=
  opcodeMap.find? fun r => w &&& r.mask == r.pattern

/-- The decode algorithm of R86: the row, then the value checks; a word that fails is illegal, by name. -/
def decode (w : Word) : Except DecodeError Instr :=
  match rowOf w with
  | none =>
    if opcodeMap.any (fun r => opField w == opField r.pattern) then .error .mustBeZero
    else .error .unassignedOpcode
  | some r =>
    match (fieldsOf r.op w).illFormed? with
    | none => .ok (fieldsOf r.op w)
    | some why => .error (.illFormed why)

/-- The word of a command: the formats of R82 with every must-be-zero bit 0. -/
def encode : Instr → Word
  | .nop => 0x00#8 ++ 0#24
  | .ldh rd imm => 0x01#8 ++ Machine.regBits rd ++ 0#6 ++ imm
  | .ldl rd imm => 0x02#8 ++ Machine.regBits rd ++ 0#6 ++ imm
  | .rdx rs => 0x03#8 ++ 0#2 ++ Machine.regBits rs ++ 0#20
  | .rdcsr rd csr => 0x04#8 ++ Machine.regBits rd ++ 0#14 ++ csr
  | .ftbuild rs => 0x10#8 ++ 0#2 ++ Machine.regBits rs ++ 0#20
  | .nres rd name oct => 0x11#8 ++ Machine.regBits rd ++ 0#10 ++ name ++ oct
  | .pcalc rs => 0x12#8 ++ 0#2 ++ Machine.regBits rs ++ 0#20
  | .qinit pina pinb => 0x20#8 ++ 0#11 ++ pinb ++ 0#3 ++ pina
  | .qatt dir handle => 0x21#8 ++ 0#3 ++ Machine.dirBit dir ++ 0#4 ++ handle
  | .qen => 0x22#8 ++ 0#24
  | .qdis => 0x23#8 ++ 0#24

/-- The command the decoder reads from an instruction whose bits are `w`, of which the opcode table gives `nbits`: the
bits above `nbits` are 0, and the one command word is the low 32 bits. -/
def decodeTableWord (nbits w : Nat) : Option Instr :=
  (decode (BitVec.ofNat 32 (w % 2 ^ nbits))).toOption

end Sys2Proof
end

