-- ==== Sys2Proof/Machine/State.lean ====
section
/-! DEFINITION. The state of the PQT block (spec/10_state.md R20 to R45), its inputs and outputs (R40) and the state after
reset (R45). The block raises no exception (60_exceptions.md R260), so no field saves one. -/
namespace Sys2Proof.Machine

/-- Why a step can stop with a fault. -/
inductive Fault where
  /-- Raised by `State.memRead` for a word index at or above `12 * N_OCT`, which the spec says no command can present
  (20_memory.md R62). Only a state whose parameters are outside R6 reaches it. Safe: the model stops where the spec
  has no behaviour (notes/assumptions/15.md). -/
  | noSuchTableWord
deriving DecidableEq, Repr

/-- Why a step can be refused. -/
inductive Refusal where
  /-- Raised by an arm of `exec` for an instruction without a meaning; no arm does. Safe: the model stops. -/
  | notModelled (mnemonic : String)
deriving DecidableEq, Repr

/-- The general registers `x0` to `x3` (R21). -/
structure Regs where
  x0 : Word
  x1 : Word
  x2 : Word
  x3 : Word
deriving DecidableEq, Repr

/-- The seven states of the decoder (R34; 43_quadrature_decoder.md R180). -/
inductive QState where
  | start | cw1 | cw2 | cw3 | ccw1 | ccw2 | ccw3
deriving DecidableEq, Repr

/-- A callback slot (R36). -/
structure Slot where
  valid : Bool
  handle : BitVec 16
deriving DecidableEq, Repr

/-- The output events (42_period_calculator.md R166; 60_exceptions.md R268, R269). -/
inductive Event where
  | callback (dir : Dir) (handle : BitVec 16)
  | timerLoad (period duty : Word)
  | timerSilence
deriving DecidableEq, Repr

/-- What can arrive at the block's inputs (R40; 00_scope.md R5, R14): a reset, a command word, a tick, or a change of the
pins by the environment between two steps. -/
inductive Input where
  | rst
  | cmd (w : Word)
  | tick
  | pins (levels : Word)
deriving DecidableEq, Repr

/-- A memory of 32-bit words: pairs of a word index and a word, indices strictly rising (`Memory.wf`). An index that is not
listed has no value: nothing has written it. -/
abbrev Memory := List (Nat × Word)

/-- The machine. Fields in the order of INVENTORY.md's heading State. -/
structure State where
  /-- The instance's parameters (00_scope.md R6); no step changes them. -/
  cfg : Params
  /-- `x0` to `x3` (R21). -/
  x : Regs
  /-- `STATUS.TV`: table valid (R24). -/
  tv : Bool
  /-- `STATUS.QI`: decoder initialised (R25). -/
  qi : Bool
  /-- `STATUS.EN`: decoder enabled (R26). -/
  en : Bool
  /-- `STATUS.SIL`: output silenced (R27). -/
  sil : Bool
  /-- `STATUS.ILL`: illegal command seen (R28). -/
  ill : Bool
  /-- `REFPITCH` (R29). -/
  refPitch : Word
  /-- `PERIOD` (R30). -/
  period : Word
  /-- `DUTY` (R31). -/
  duty : Word
  /-- `TC` (R32). -/
  tc : Word
  /-- `DIR` (R33). -/
  dir : Dir
  /-- `QS` (R34). -/
  qs : QState
  /-- `PINA` (R35). -/
  pinA : BitVec 5
  /-- `PINB` (R35). -/
  pinB : BitVec 5
  /-- `CB[CW]` (R36). -/
  cbCw : Slot
  /-- `CB[CCW]` (R36). -/
  cbCcw : Slot
  /-- `FT`, the frequency table (R38). -/
  ft : Memory
  /-- The levels at `din_i` (R40); an input, not state of the block (R43; notes/assumptions/3.md). -/
  din : Word
  /-- What will arrive at the inputs, in the total order of 20_memory.md R69 (notes/assumptions/2.md). -/
  inputs : List Input
  /-- `rsp_o` of the latest step, if it was a command step (30_encoding.md R92; notes/assumptions/4.md). -/
  rsp : Option Word
  /-- The events the latest step emitted (60_exceptions.md R270; notes/assumptions/4.md). -/
  events : List Event
  /-- The model's own counter that picks the next free value (notes/assumptions/6.md). -/
  free : Nat
deriving DecidableEq, Repr

/-- The block of an instance with the parameters `p` right after reset (R45), nothing waiting at its inputs. `x0` to `x3`
are unspecified there; 0 is a DESIGN CHOICE (notes/assumptions/5.md). -/
def State.resetWith (p : Params) : State :=
  { cfg := p
    x := { x0 := 0, x1 := 0, x2 := 0, x3 := 0 }
    tv := false
    qi := false
    en := false
    sil := true
    ill := false
    refPitch := 0
    period := 0
    duty := 0
    tc := 0
    dir := p.dirReset
    qs := .start
    pinA := 0
    pinB := 0
    cbCw := { valid := false, handle := 0 }
    cbCcw := { valid := false, handle := 0 }
    ft := []
    din := 0
    inputs := []
    rsp := none
    events := []
    free := 0 }

/-- The machine right after reset (R45). DESIGN CHOICE: the parameters are the spec's example set `CFG-REF`
(notes/assumptions/1.md); statements take any parameters. -/
def State.reset : State := State.resetWith Config.cfgRef

end Sys2Proof.Machine
end

