-- ==== Sys2Proof/Machine/Flags.lean ====
section
/-! DEFINITION. The five flags, their places in `STATUS`, and what sets them (spec/10_state.md R23 to R28). There are no
arithmetic condition codes (R23). -/
namespace Sys2Proof.Machine

/-- The five flags (R23). -/
inductive Flag where
  | tv | qi | en | sil | ill
deriving DecidableEq, Repr

/-- Read one flag. -/
def State.flag (s : State) : Flag → Bool
  | .tv => s.tv
  | .qi => s.qi
  | .en => s.en
  | .sil => s.sil
  | .ill => s.ill

/-- The word `STATUS`: bit 0 `TV`, bit 1 `QI`, bit 2 `EN`, bit 3 `SIL`, bit 4 `ILL`, bits 31 to 5 zero (R23). -/
def State.statusWord (s : State) : Word :=
  0#27 ++ BitVec.ofBool s.ill ++ BitVec.ofBool s.sil ++ BitVec.ofBool s.en ++ BitVec.ofBool s.qi ++ BitVec.ofBool s.tv

/-- `STATUS.ILL <- 1` (R28), the only error indication (60_exceptions.md R262). -/
def State.markIllegal (s : State) : State := { s with ill := true }

end Sys2Proof.Machine
end

