-- ==== Sys2Proof/Machine/Ops.lean ====
section
/-! DEFINITION. The operations the commands share: general registers, the response, the table memory (spec/20_memory.md R62),
callback slots, control registers (10_state.md R23 to R37), the illegal command (30_encoding.md R87) and the reset
step (70_reset_and_hazards.md R300). The block takes no exception and returns from none (60_exceptions.md R260, R272, R273):
the illegal command is what stands in that place, and it only sets `ILL`. -/
namespace Sys2Proof.Machine

/-- `x[r]` (R21): four plain registers, none hardwired. -/
def State.readX (s : State) : Reg → Word
  | .x0 => s.x.x0
  | .x1 => s.x.x1
  | .x2 => s.x.x2
  | .x3 => s.x.x3

/-- The registers with `x[r] <- v`. -/
def Regs.set (x : Regs) (r : Reg) (v : Word) : Regs :=
  match r with
  | .x0 => { x with x0 := v }
  | .x1 => { x with x1 := v }
  | .x2 => { x with x2 := v }
  | .x3 => { x with x3 := v }

/-- `x[r] <- v` (R11). -/
def State.writeX (s : State) (r : Reg) (v : Word) : State := { s with x := s.x.set r v }

/-- The outputs of a command step: `rsp <- w`, and the events emitted (R11, R92, R270). -/
def State.respond (s : State) (w : Word) (events : List Event) : State :=
  { s with rsp := some w, events := events }

/-- The outputs of a step that is no command step and emits nothing (R268: outside an emitting step the lines are 0). -/
def State.quiet (s : State) : State := { s with rsp := none, events := [] }

/-- Executing an illegal command word: `STATUS.ILL <- 1`, `rsp <- 0`, nothing else (R87). -/
def State.illegalCommand (s : State) : State := s.markIllegal.respond 0 []

/-- Is a memory in its canonical form: indices strictly rising. An unlisted index reads as no value, so no entry can equal
what an unlisted index reads as. -/
abbrev Memory.wf (m : Memory) : Prop := m.Pairwise fun a b => a.1 < b.1

/-- The word at index `k`, if something has written it. -/
def Memory.read (m : Memory) (k : Nat) : Option Word :=
  match m with
  | [] => none
  | (j, v) :: rest => if k = j then some v else Memory.read rest k

/-- `MemWrite(k, 1, v)` (R62): the word at index `k` becomes `v`. -/
def Memory.write (m : Memory) (k : Nat) (v : Word) : Memory :=
  match m with
  | [] => [(k, v)]
  | (j, u) :: rest =>
    if k < j then (k, v) :: (j, u) :: rest
    else if k = j then (k, v) :: rest
    else (j, u) :: Memory.write rest k v

/-- Write a list of words one after the other. -/
def Memory.writeAll (m : Memory) (entries : List (Nat × Word)) : Memory :=
  entries.foldl (fun m e => Memory.write m e.1 e.2) m

/-- `MemRead(k, 1)` (R62): the word, and the state after the read. A word nothing has written is unspecified (R38, U3): a
free value, fresh at each read. An index the spec says does not exist faults. -/
def State.memRead (s : State) (k : Nat) : Except Fault (Word × State) :=
  if k < tableSize s.cfg then
    match Memory.read s.ft k with
    | some v => .ok (v, s)
    | none => .ok (Config.freeWord s.free, { s with free := s.free + 1 })
  else .error .noSuchTableWord

/-- The callback slot of a direction (R36). -/
def State.slot (s : State) : Dir → Slot
  | .cw => s.cbCw
  | .ccw => s.cbCcw

/-- `CB[d] <- c`. -/
def State.setSlot (s : State) (d : Dir) (c : Slot) : State :=
  match d with
  | .cw => { s with cbCw := c }
  | .ccw => { s with cbCcw := c }

/-- The encoding of the decoder's state (R34). -/
def QState.code : QState → BitVec 3
  | .start => 0
  | .cw1 => 1
  | .cw2 => 2
  | .cw3 => 3
  | .ccw1 => 5
  | .ccw2 => 6
  | .ccw3 => 7

/-- The word of a callback slot: bit 16 `valid`, bits 15 to 0 `handle` (R36). -/
def Slot.word (c : Slot) : Word := 0#15 ++ BitVec.ofBool c.valid ++ c.handle

/-- The 32-bit value of a control register (R23, R29 to R37). -/
def State.readCsr (s : State) : Csr → Word
  | .status => s.statusWord
  | .refpitch => s.refPitch
  | .period => s.period
  | .duty => s.duty
  | .tc => s.tc
  | .dir => 0#31 ++ dirBit s.dir
  | .qstate => 0#29 ++ s.qs.code
  | .pinsel => 0#19 ++ s.pinB ++ 0#3 ++ s.pinA
  | .cbcw => s.cbCw.word
  | .cbccw => s.cbCcw.word
  | .cfgclk => BitVec.ofNat 32 s.cfg.fClk
  | .cfgpresc => 0#16 ++ BitVec.ofNat 16 s.cfg.presc
  | .cfgpmin => BitVec.ofNat 32 s.cfg.perMin
  | .cfgpmax => BitVec.ofNat 32 s.cfg.perMax
  | .cfgtbl => 0#12 ++ BitVec.ofNat 4 s.cfg.octShift ++ BitVec.ofInt 8 s.cfg.firstOct ++ 0#3 ++ BitVec.ofNat 5 s.cfg.nOct
  | .cfgmisc => 0#18 ++ BitVec.ofNat 6 s.cfg.npin ++ 0#7 ++ dirBit s.cfg.dirReset

/-- The reset step (R300): every piece of state at its value of R45. The general registers are unspecified (R302), "need not
be equal on two resets": free values. The table is unspecified: nothing is listed. The parameters, the pins and what
still waits at the inputs are not state of the block (R43). -/
def State.resetStep (s : State) : State :=
  { State.resetWith s.cfg with
    x := { x0 := Config.freeWord s.free, x1 := Config.freeWord (s.free + 1),
           x2 := Config.freeWord (s.free + 2), x3 := Config.freeWord (s.free + 3) }
    din := s.din
    inputs := s.inputs
    free := s.free + 4 }

/-- The environment sets the pins (R5). -/
def State.setPins (s : State) (levels : Word) : State := { s.quiet with din := levels }

/-- A level vector with one bit set to `b`. -/
def setLevel (levels : Word) (pin : BitVec 5) (b : Bool) : Word :=
  let m : Word := 1#32 <<< pin.toNat
  if b then levels ||| m else levels &&& ~~~m

/-- The trace directive `.pins a,b`: `DIN[PINA] <- a` and `DIN[PINB] <- b` (R90). -/
def State.pinsDirective (s : State) (a b : Bool) : Input :=
  .pins (setLevel (setLevel s.din s.pinA a) s.pinB b)

end Sys2Proof.Machine
end

