-- ==== Sys2Proof/Machine/Access.lean ====
section
/-! DEFINITION. The access commands `NOP`, `LDH`, `LDL`, `RDX`, `RDCSR` (spec/40_access.md R110 to R114). -/
namespace Sys2Proof.Machine

/-- `NOP` (R110): `rsp <- 0`, nothing read, nothing written. -/
def execNop (s : State) : Host.Outcome State Fault Refusal :=
  .next (s.respond 0 [])

/-- `LDH xd, imm16` (R111). -/
def execLdh (rd : Reg) (imm : BitVec 16) (s : State) : Host.Outcome State Fault Refusal :=
  .next ((s.writeX rd (imm ++ 0#16)).respond 0 [])

/-- `LDL xd, imm16` (R112): bits 31 to 16 kept. -/
def execLdl (rd : Reg) (imm : BitVec 16) (s : State) : Host.Outcome State Fault Refusal :=
  .next ((s.writeX rd ((s.readX rd).extractLsb' 16 16 ++ imm)).respond 0 [])

/-- `RDX xs` (R113). -/
def execRdx (rs : Reg) (s : State) : Host.Outcome State Fault Refusal :=
  .next (s.respond (s.readX rs) [])

/-- `RDCSR xd, csr` (R114): illegal for an unassigned number. -/
def execRdcsr (rd : Reg) (csr : BitVec 8) (s : State) : Host.Outcome State Fault Refusal :=
  match csrOfNumber csr with
  | some c => .next ((s.writeX rd (s.readCsr c)).respond 0 [])
  | none => .next s.illegalCommand

end Sys2Proof.Machine
end

