-- ==== Sys2Proof/Machine/FrequencyTable.lean ====
section
/-! DEFINITION. The equal-tempered frequency table: the stored value, `FTBUILD` and `NRES` (spec/41_frequency_table.md). -/
namespace Sys2Proof.Machine

/-- The semitone ratio ROM, `round(2^(s/12) * 2^30)` (10_state.md R42). -/
def rom (semitone : Nat) : Nat :=
  match semitone with
  | 0 => 0x40000000
  | 1 => 0x43CE3E4B
  | 2 => 0x47D66B0F
  | 3 => 0x4C1BF829
  | 4 => 0x50A28BE6
  | 5 => 0x556E0424
  | 6 => 0x5A82799A
  | 7 => 0x5FE4435E
  | 8 => 0x6597FA95
  | 9 => 0x6BA27E65
  | 10 => 0x7208F81D
  | 11 => 0x78D0DF9C
  | _ => 0

/-- `V` of R133: the product with the ratio, divided by `2^(30 + OCT_SHIFT - o)`, rounded to nearest, ties upward; not yet
saturated. -/
def entryValue (p : Params) (ref : Word) (semitone octIdx : Nat) : Nat :=
  let t := ref.toNat * rom semitone
  let sh := 30 + p.octShift - octIdx
  (t + 2 ^ (sh - 1)) / 2 ^ sh

/-- `stored(s, o)` of R133: saturated at `2^32 - 1`. -/
def storedValue (p : Params) (ref : Word) (semitone octIdx : Nat) : Word :=
  BitVec.ofNat 32 (min (entryValue p ref semitone octIdx) (2 ^ 32 - 1))

/-- Is the entry neither rounded to 0 nor saturated (R139, U2)? Only such an entry "may be relied on". -/
abbrev EntryInContract (p : Params) (ref : Word) (semitone octIdx : Nat) : Prop :=
  1 ≤ entryValue p ref semitone octIdx ∧ entryValue p ref semitone octIdx < 2 ^ 32

/-- The word `FTBUILD` leaves at an entry: `stored(s, o)` of R133; where that rounds to 0 or saturates, a zero or absurd
pitch (R138, R139), the word is unspecified: a free value (U1, U2; notes/assumptions/9.md). -/
def tableWord (p : Params) (ref : Word) (semitone octIdx : Nat) : Word :=
  if EntryInContract p ref semitone octIdx then storedValue p ref semitone octIdx
  else Config.absurdWord p ref semitone octIdx

/-- Every write of `FTBUILD`'s two loops, in their order (R135). -/
def tableEntries (p : Params) (ref : Word) : List (Nat × Word) :=
  (List.range p.nOct).flatMap fun o =>
    (List.range 12).map fun semitone => (tableIndex semitone o, tableWord p ref semitone o)

/-- `FTBUILD`'s writes: `REFPITCH`, every word of `FT`, `TV` (R135), in one step (20_memory.md R66). -/
def State.buildTable (s : State) (ref : Word) : State :=
  { s with
    refPitch := ref
    ft := Memory.writeAll s.ft (tableEntries s.cfg ref)
    tv := true }

/-- `FTBUILD xs` (R135): no pitch is refused, and no flag tells a zero or absurd one (R138, R139). -/
def execFtbuild (rs : Reg) (s : State) : Host.Outcome State Fault Refusal :=
  .next ((s.buildTable (s.readX rs)).respond 0 [])

/-- `NRES xd, note` (R142): `Rest` gives the silence sentinel without a read of the table (R141); a tone gives the word at
its semitone and clamped octave (R143); a reserved note is illegal (R87). -/
def execNres (rd : Reg) (name : BitVec 4) (oct : BitVec 8) (s : State) : Host.Outcome State Fault Refusal :=
  match noteOfFields name oct with
  | some .rest => .next ((s.writeX rd 0).respond 0 [])
  | some (.tone semitone octave) =>
    match s.memRead (tableIndex semitone.val (octaveIndex s.cfg octave)) with
    | .ok (v, s') => .next ((s'.writeX rd v).respond 0 [])
    | .error e => .fault e
  | none => .next s.illegalCommand

end Sys2Proof.Machine
end

