-- ==== Sys2Proof/Machine/Period.lean ====
section
/-! DEFINITION. The timer period calculator, `PCALC` (spec/42_period_calculator.md). -/
namespace Sys2Proof.Machine

/-- The unclamped period `floor((F_CLK * 65536) / (PRESC * F))` (R161). -/
def periodQuotient (p : Params) (freq : Word) : Nat :=
  p.fClk * 65536 / (p.presc * freq.toNat)

/-- The clamped period (R162). -/
def periodOf (p : Params) (freq : Word) : Nat :=
  min (max (periodQuotient p freq) p.perMin) p.perMax

/-- The 50 percent duty value of a period (R163). -/
def dutyOf (period : Word) : Word := period >>> 1

/-- `PERIOD <- p`, `DUTY <- p >> 1`, `SIL <- 0` (R165). -/
def State.loadPeriod (s : State) (period : Word) : State :=
  { s with period := period, duty := dutyOf period, sil := false }

/-- `SIL <- 1`, `PERIOD` and `DUTY` held (R164). -/
def State.silence (s : State) : State := { s with sil := true }

/-- `PCALC xs` (R165). -/
def execPcalc (rs : Reg) (s : State) : Host.Outcome State Fault Refusal :=
  let freq := s.readX rs
  if freq = 0 then
    .next (s.silence.respond 0 [.timerSilence])
  else
    let p := BitVec.ofNat 32 (periodOf s.cfg freq)
    .next ((s.loadPeriod p).respond 0 [.timerLoad p (dutyOf p)])

end Sys2Proof.Machine
end

