-- ==== Sys2Proof/Machine/Quadrature.lean ====
section
/-! DEFINITION. The quadrature decoder: the next-state function, the tick step, `QINIT`, `QATT`, `QEN`, `QDIS`
(spec/43_quadrature_decoder.md). -/
namespace Sys2Proof.Machine

/-- `QNEXT(state, A, B)` (R183), all 28 cells: the next state, and the direction of a commit if the cell is one. Columns in
the table's order (0,0), (1,0), (1,1), (0,1). The six cells of R188 and the six of R189 hold (notes/assumptions/11.md). -/
def qnext (q : QState) (a b : Bool) : QState × Option Dir :=
  match q, a, b with
  | .start, false, false => (.start, none)
  | .start, true, false => (.cw1, none)
  | .start, true, true => (.start, none)
  | .start, false, true => (.ccw1, none)
  | .cw1, false, false => (.start, none)
  | .cw1, true, false => (.cw1, none)
  | .cw1, true, true => (.cw2, none)
  | .cw1, false, true => (.cw1, none)
  | .cw2, false, false => (.cw2, none)
  | .cw2, true, false => (.cw1, none)
  | .cw2, true, true => (.cw2, none)
  | .cw2, false, true => (.cw3, none)
  | .cw3, false, false => (.start, some .cw)
  | .cw3, true, false => (.cw3, none)
  | .cw3, true, true => (.cw2, none)
  | .cw3, false, true => (.cw3, none)
  | .ccw1, false, false => (.start, none)
  | .ccw1, true, false => (.ccw1, none)
  | .ccw1, true, true => (.ccw2, none)
  | .ccw1, false, true => (.ccw1, none)
  | .ccw2, false, false => (.ccw2, none)
  | .ccw2, true, false => (.ccw3, none)
  | .ccw2, true, true => (.ccw2, none)
  | .ccw2, false, true => (.ccw1, none)
  | .ccw3, false, false => (.start, some .ccw)
  | .ccw3, true, false => (.ccw3, none)
  | .ccw3, true, true => (.ccw2, none)
  | .ccw3, false, true => (.ccw3, none)

/-- Does the input vector have this pin (10_state.md R35)? -/
def State.pinExists (s : State) (pin : BitVec 5) : Bool := decide (pin.toNat < s.cfg.npin)

/-- `DIN[pin]` at this step; a pin at or above `NPIN` gives a free bit (U7). -/
def State.samplePin (s : State) (pin : BitVec 5) : Bool :=
  if s.pinExists pin then s.din.getLsbD pin.toNat else Config.absentPin s.free pin.toNat

/-- The free-value counter after the two samples of a tick: moved on when a sample was free. -/
def State.freeAfterSamples (s : State) : Nat :=
  if s.pinExists s.pinA && s.pinExists s.pinB then s.free else s.free + 1

/-- `TC` after a commit: plus or minus 1 modulo 2^32 (R190, R199). -/
def countCommit (tc : Word) : Dir → Word
  | .cw => tc + 1
  | .ccw => tc - 1

/-- The callback event of a commit, if a callback is attached (R191). -/
def State.callbackEvents (s : State) (d : Dir) : List Event :=
  if (s.slot d).valid then [.callback d (s.slot d).handle] else []

/-- What an enabled decoder does with a sample `(a, b)` (R182): the next state, and at a commit the count, the direction
and the event. No response word. -/
def State.decodeSample (s : State) (a b : Bool) : State :=
  match qnext s.qs a b with
  | (next, none) => { s.quiet with qs := next }
  | (next, some d) =>
    { s with qs := next, tc := countCommit s.tc d, dir := d, rsp := none, events := s.callbackEvents d }

/-- The tick step (R182). With `EN = 0` the tick is dropped. -/
def State.tickStep (s : State) : State :=
  if s.en then
    { s.decodeSample (s.samplePin s.pinA) (s.samplePin s.pinB) with free := s.freeAfterSamples }
  else s.quiet

/-- `QINIT`'s writes (R193); the callback slots stay. -/
def State.initDecoder (s : State) (pina pinb : BitVec 5) : State :=
  { s with pinA := pina, pinB := pinb, tc := 0, dir := s.cfg.dirReset, qs := .start, qi := true, en := true }

/-- `QINIT pina, pinb` (R193). -/
def execQinit (pina pinb : BitVec 5) (s : State) : Host.Outcome State Fault Refusal :=
  .next ((s.initDecoder pina pinb).respond 0 [])

/-- `QATT dir, handle` (R194). -/
def execQatt (dir : Dir) (handle : BitVec 16) (s : State) : Host.Outcome State Fault Refusal :=
  .next ((s.setSlot dir { valid := true, handle := handle }).respond 0 [])

/-- `QEN` (R195): enabling a disabled decoder puts it at `Start`; an enabled one is not disturbed. -/
def State.enableDecoder (s : State) : State :=
  if s.en then s else { s with en := true, qs := .start }

/-- `QEN` (R195). -/
def execQen (s : State) : Host.Outcome State Fault Refusal :=
  .next (s.enableDecoder.respond 0 [])

/-- `EN <- 0` (R196). -/
def State.disableDecoder (s : State) : State := { s with en := false }

/-- `QDIS` (R196): the decoder's state freezes. -/
def execQdis (s : State) : Host.Outcome State Fault Refusal :=
  .next (s.disableDecoder.respond 0 [])

end Sys2Proof.Machine
end

