-- ==== Sys2Proof/Machine/Dispatch.lean ====
section
/-! DEFINITION. Executing a command: one meaning per command (spec/30_encoding.md R85). -/
namespace Sys2Proof.Machine

def exec (i : Instr) (s : State) : Host.Outcome State Fault Refusal :=
  match i with
  | .nop => Sys2Proof.Machine.execNop s
  | .ldh rd imm => Sys2Proof.Machine.execLdh rd imm s
  | .ldl rd imm => Sys2Proof.Machine.execLdl rd imm s
  | .rdx rs => Sys2Proof.Machine.execRdx rs s
  | .rdcsr rd csr => Sys2Proof.Machine.execRdcsr rd csr s
  | .ftbuild rs => Sys2Proof.Machine.execFtbuild rs s
  | .nres rd name oct => Sys2Proof.Machine.execNres rd name oct s
  | .pcalc rs => Sys2Proof.Machine.execPcalc rs s
  | .qinit pina pinb => Sys2Proof.Machine.execQinit pina pinb s
  | .qatt dir handle => Sys2Proof.Machine.execQatt dir handle s
  | .qen => Sys2Proof.Machine.execQen s
  | .qdis => Sys2Proof.Machine.execQdis s

end Sys2Proof.Machine
end

