-- ==== Sys2Proof/Machine/Command.lean ====
section
/-! DEFINITION. The steps of the block (spec/00_scope.md R14): what each input does when it arrives. -/
namespace Sys2Proof.Machine

/-- The command step of a word (30_encoding.md R80, R86, R87): executed by its rule, or illegal. There is no third outcome
(00_scope.md R15). -/
def commandStep (w : Word) (s : State) : Host.Outcome State Fault Refusal :=
  match decode w with
  | .ok i => exec i s
  | .error _ => .next s.illegalCommand

/-- The step an input is (R14), or the environment's move between two steps (R5). -/
def inputStep (i : Input) (s : State) : Host.Outcome State Fault Refusal :=
  match i with
  | .rst => .next s.resetStep
  | .cmd w => commandStep w s
  | .tick => .next s.tickStep
  | .pins levels => .next (s.setPins levels)

/-- Take the next input off the list and do what it says. With nothing arriving "the block does nothing"
(70_reset_and_hazards.md R303). -/
def takeInput (s : State) : Host.Outcome State Fault Refusal :=
  match s.inputs with
  | [] => .next s.quiet
  | i :: rest => inputStep i { s with inputs := rest }

/-- The host presents the command word `w` next, before what waits at the inputs. -/
def State.presentCommand (s : State) (w : Word) : State := { s with inputs := .cmd w :: s.inputs }

end Sys2Proof.Machine
end

