-- ==== Sys2Proof/Machine/Step.lean ====
section
/-! DEFINITION. One step of the machine: the next input of the total order of spec/20_memory.md R69. -/
namespace Sys2Proof.Machine

/-- One step: the next input is taken and its step is done (R14). -/
def step (s : State) : Host.Outcome State Fault Refusal := takeInput s

/-- `s` with the command word `w` (its low `nbits` bits) presented so that the very next step executes it. The block has no
program counter and no instruction memory (R22): a program is what the host presents (notes/assumptions/2.md). -/
def State.withFetchWord (s : State) (nbits w : Nat) : State :=
  s.presentCommand (BitVec.ofNat 32 (w % 2 ^ nbits))

end Sys2Proof.Machine
end

