-- ==== Sys2Proof/Machine/Assembler.lean ====
section
/-! DEFINITION. The assembler's side of the command set: pseudo-instructions (spec/30_encoding.md R91) and the spelling of a
command (R90). -/
namespace Sys2Proof.Machine

/-- `LI xd, imm32` (R91). -/
def pseudoLi (rd : Reg) (v : Word) : List Instr :=
  [.ldh rd (v.extractLsb' 16 16), .ldl rd (v.extractLsb' 0 16)]

/-- `LHZ xd, n`: the whole-number frequency `n` Hz (R91). -/
def pseudoLhz (rd : Reg) (n : BitVec 16) : List Instr := [.ldh rd n]

/-- `QRDTC xd`, the document's `getTickCount()` (R91, 43_quadrature_decoder.md R197). -/
def pseudoQrdtc (rd : Reg) : List Instr := [.rdcsr rd (csrNumber .tc)]

/-- `QRDDIR xd`, the document's `getLastDirection()` (R91, R197). -/
def pseudoQrddir (rd : Reg) : List Instr := [.rdcsr rd (csrNumber .dir)]

/-- `SILENCE xt` (R91); overwrites `xt`. -/
def pseudoSilence (rt : Reg) : List Instr := [.ldh rt 0, .pcalc rt]

/-- The words the host presents for a list of commands. -/
def assemble (is : List Instr) : List Word := is.map encode

/-- `x0` to `x3` (R90). -/
def regName : Reg → String
  | .x0 => "x0"
  | .x1 => "x1"
  | .x2 => "x2"
  | .x3 => "x3"

/-- The name of a control register (R90). -/
def csrName : Csr → String
  | .status => "STATUS"
  | .refpitch => "REFPITCH"
  | .period => "PERIOD"
  | .duty => "DUTY"
  | .tc => "TC"
  | .dir => "DIR"
  | .qstate => "QSTATE"
  | .pinsel => "PINSEL"
  | .cbcw => "CBCW"
  | .cbccw => "CBCCW"
  | .cfgclk => "CFGCLK"
  | .cfgpresc => "CFGPRESC"
  | .cfgpmin => "CFGPMIN"
  | .cfgpmax => "CFGPMAX"
  | .cfgtbl => "CFGTBL"
  | .cfgmisc => "CFGMISC"

/-- `CW` or `CCW` (R90). -/
def dirName : Dir → String
  | .cw => "CW"
  | .ccw => "CCW"

/-- A note literal: `REST`, or `S<k>.<octave>` (R90). -/
def noteName : Note → String
  | .rest => "REST"
  | .tone semitone octave => "S" ++ toString semitone.val ++ "." ++ toString octave

/-- The spelling of a command (R90), numbers in decimal; operand order is destination first. `none` for a command that is
not well-formed and has no number form. -/
def asmText : Instr → Option String
  | .nop => some "NOP"
  | .ldh rd imm => some ("LDH " ++ regName rd ++ ", " ++ toString imm.toNat)
  | .ldl rd imm => some ("LDL " ++ regName rd ++ ", " ++ toString imm.toNat)
  | .rdx rs => some ("RDX " ++ regName rs)
  | .rdcsr rd csr =>
    match csrOfNumber csr with
    | some c => some ("RDCSR " ++ regName rd ++ ", " ++ csrName c)
    | none => some ("RDCSR " ++ regName rd ++ ", " ++ toString csr.toNat)
  | .ftbuild rs => some ("FTBUILD " ++ regName rs)
  | .nres rd name oct =>
    match noteOfFields name oct with
    | some n => some ("NRES " ++ regName rd ++ ", " ++ noteName n)
    | none => none
  | .pcalc rs => some ("PCALC " ++ regName rs)
  | .qinit pina pinb => some ("QINIT " ++ toString pina.toNat ++ ", " ++ toString pinb.toNat)
  | .qatt dir handle => some ("QATT " ++ dirName dir ++ ", " ++ toString handle.toNat)
  | .qen => some "QEN"
  | .qdis => some "QDIS"

end Sys2Proof.Machine
end

