-- ==== Sys2Proof/Machine/Ports.lean ====
section
/-! DEFINITION. The output ports (spec/10_state.md R40) as views of the state and of the latest step's events. -/
namespace Sys2Proof.Machine

/-- `rsp_o`: the response word of a command step. -/
def State.rspO (s : State) : Option Word := s.rsp

/-- `evt_cw_o`: 1 in the step that emits `Callback(CW, handle)` (60_exceptions.md R268). -/
def State.evtCwO (s : State) : Bool :=
  s.events.any fun e => match e with
    | .callback .cw _ => true
    | .callback .ccw _ => false
    | .timerLoad _ _ => false
    | .timerSilence => false

/-- `evt_ccw_o` (60_exceptions.md R268). -/
def State.evtCcwO (s : State) : Bool :=
  s.events.any fun e => match e with
    | .callback .cw _ => false
    | .callback .ccw _ => true
    | .timerLoad _ _ => false
    | .timerSilence => false

/-- `evt_handle_o`: the handle of the callback of the event; the spec gives it no value in any other step
(notes/assumptions/4.md). -/
def State.evtHandleO (s : State) : Option (BitVec 16) :=
  s.events.findSome? fun e => match e with
    | .callback _ handle => some handle
    | .timerLoad _ _ => none
    | .timerSilence => none

/-- `period_o` (42_period_calculator.md R166). -/
def State.periodO (s : State) : Word := s.period

/-- `duty_o` (R166). -/
def State.dutyO (s : State) : Word := s.duty

/-- `silence_o` (R166). -/
def State.silenceO (s : State) : Bool := s.sil

/-- `load_o`: the pulse of `TimerLoad` (R166); `TimerSilence` has no pulse of its own. -/
def State.loadO (s : State) : Bool :=
  s.events.any fun e => match e with
    | .callback _ _ => false
    | .timerLoad _ _ => true
    | .timerSilence => false

end Sys2Proof.Machine
end

