-- ==== Sys2Proof/Safety.lean ====
section
/-! DEFINITION. What a good state and a safe step are, in the words the statements use: the invariants of spec/10_state.md R44,
what a step leaves unchanged, the decoder over a sequence of samples, and the caller's contract of
spec/93_implementation_defined.md. -/
namespace Sys2Proof.Machine

/-! ## The invariant of R44 -/

/-- The table memory is canonical and lists no word that does not exist (R38, 20_memory.md R62). -/
abbrev TableWf (s : State) : Prop :=
  Memory.wf s.ft ∧ ∀ e ∈ s.ft, e.1 < tableSize s.cfg

/-- R44 (e): with `TV = 1` every word of the table is R133's value for the current `REFPITCH`, a free value where that rounds
to 0 or saturates (U1, U2); and with `TV = 0` nothing has been written (R24, R38: `TV` tells which). -/
def TableMatchesPitch (s : State) : Prop :=
  (s.tv = true → ∀ o < s.cfg.nOct, ∀ semitone < 12,
    Memory.read s.ft (12 * o + semitone) = some (tableWord s.cfg s.refPitch semitone o)) ∧
  (s.tv = false → s.ft = [])

/-- R44 (c): with `SIL = 0` the period is within the timer's range. -/
abbrev PeriodInRange (s : State) : Prop :=
  s.sil = false → s.cfg.perMin ≤ s.period.toNat ∧ s.period.toNat ≤ s.cfg.perMax

/-- The invariant: legal parameters (00_scope.md R6), R44 (b), (c), (e), and the memory's form. R44 (a) and (h) hold by the
types and the words `State.readCsr` builds. -/
structure Inv (s : State) : Prop where
  legal : s.cfg.legal
  table : TableWf s
  pitch : TableMatchesPitch s
  period : PeriodInRange s
  duty : s.duty.toNat = s.period.toNat / 2

/-! ## Illegal words -/

/-- The four kinds of illegal command word (30_encoding.md R87): an unassigned opcode; an assigned opcode with a must-be-zero
bit 1; an `RDCSR` of an unassigned number; an `NRES` with `name` 12, 13, 14, or 15 with `oct` not 0. Written from the
rule, without the decoder's value checks. -/
abbrev IllegalWord (w : Word) : Prop :=
  (∀ r ∈ opcodeMap, opField w ≠ opField r.pattern) ∨
  (∃ r ∈ opcodeMap, opField w = opField r.pattern ∧ w &&& r.mask ≠ r.pattern) ∨
  (w &&& 0xFF3FFF00#32 = 0x04000000#32 ∧
    ¬ ((w.extractLsb' 0 8).toNat ≤ 0x09 ∨ (0x10 ≤ (w.extractLsb' 0 8).toNat ∧ (w.extractLsb' 0 8).toNat ≤ 0x15))) ∨
  (w &&& 0xFF3FF000#32 = 0x11000000#32 ∧
    ((w.extractLsb' 8 4).toNat = 12 ∨ (w.extractLsb' 8 4).toNat = 13 ∨ (w.extractLsb' 8 4).toNat = 14 ∨
      ((w.extractLsb' 8 4).toNat = 15 ∧ w.extractLsb' 0 8 ≠ 0)))

/-! ## What a step leaves unchanged -/

/-- Every general register but `regs`, every flag but `flags` and every control register but `csrs` reads in `t` as in `s`
(`STATUS` through its flags), and the parameters, the pins and the waiting inputs are the same. -/
def UnchangedBut (regs : List Reg) (flags : List Flag) (csrs : List Csr) (s t : State) : Prop :=
  (∀ r, r ∉ regs → t.readX r = s.readX r) ∧
  (∀ f, f ∉ flags → t.flag f = s.flag f) ∧
  (∀ c, c ≠ .status → c ∉ csrs → t.readCsr c = s.readCsr c) ∧
  t.cfg = s.cfg ∧ t.din = s.din ∧ t.inputs = s.inputs

/-- Every word of the table reads in `t` as in `s`. -/
def SameTable (s t : State) : Prop := ∀ k, Memory.read t.ft k = Memory.read s.ft k

/-- `t` shows the response word `w` and the events `es`, and no free value was used on the way from `s`. -/
def Responds (w : Word) (es : List Event) (s t : State) : Prop :=
  t.rsp = some w ∧ t.events = es ∧ t.free = s.free

/-! ## The decoder over samples -/

/-- The decoder's state after a sequence of samples. -/
def decoderRun (q : QState) : List (Bool × Bool) → QState
  | [] => q
  | p :: ps => decoderRun (qnext q p.1 p.2).1 ps

/-- The states a sequence of samples visits, one for each sample. -/
def decoderTrace (q : QState) : List (Bool × Bool) → List QState
  | [] => []
  | p :: ps => (qnext q p.1 p.2).1 :: decoderTrace (qnext q p.1 p.2).1 ps

/-- No sample of the sequence leaves the decoder at `Start`. -/
def StaysOffStart (q : QState) (ps : List (Bool × Bool)) : Prop := QState.start ∉ decoderTrace q ps

/-- Is the state on the clockwise path? -/
def QState.onCw : QState → Bool
  | .start => false
  | .cw1 => true
  | .cw2 => true
  | .cw3 => true
  | .ccw1 => false
  | .ccw2 => false
  | .ccw3 => false

/-- Is the state on the counter-clockwise path? -/
def QState.onCcw : QState → Bool
  | .start => false
  | .cw1 => false
  | .cw2 => false
  | .cw3 => false
  | .ccw1 => true
  | .ccw2 => true
  | .ccw3 => true

/-- The levels `levels` show the pattern `(a, b)` at the two selected pins (00_scope.md R13). -/
def ShowsPattern (s : State) (levels : Word) (a b : Bool) : Prop :=
  levels.getLsbD s.pinA.toNat = a ∧ levels.getLsbD s.pinB.toNat = b

/-! ## The caller's contract -/

/-- A pitch that is neither zero nor absurd: no entry of the table rounds to 0 or saturates (U1, U2). -/
def PitchInContract (p : Params) (ref : Word) : Prop :=
  ∀ o < p.nOct, ∀ semitone < 12, EntryInContract p ref semitone o

/-- A note that may be resolved: `Rest` always (U3); a tone when a table stands, at an entry that may be relied on (U2). -/
def NoteInContract (s : State) : Note → Prop
  | .rest => True
  | .tone semitone octave => s.tv = true ∧ EntryInContract s.cfg s.refPitch semitone.val (octaveIndex s.cfg octave)

/-- A command within the document's contract (49_host_context.md R250; U1 to U3, U6, U7, U9), where `known` are the general
registers that a command has written since reset. -/
def CommandInContract (s : State) (known : List Reg) : Instr → Prop
  | .nop => True
  | .ldh _ _ => True
  | .ldl rd _ => rd ∈ known
  | .rdx rs => rs ∈ known
  | .rdcsr _ _ => True
  | .ftbuild rs => rs ∈ known ∧ PitchInContract s.cfg (s.readX rs)
  | .nres _ name oct => ∀ note, noteOfFields name oct = some note → NoteInContract s note
  | .pcalc rs => rs ∈ known
  | .qinit pina pinb => pina.toNat < s.cfg.npin ∧ pinb.toNat < s.cfg.npin
  | .qatt _ _ => s.qi = true
  | .qen => s.qi = true
  | .qdis => s.qi = true

/-- An input within the contract: a command word that is illegal is defined behaviour (U10); an enabled decoder is ticked on
pins that exist (U7). -/
def InputInContract (s : State) (known : List Reg) : Input → Prop
  | .rst => True
  | .cmd w => ∀ i, decode w = .ok i → CommandInContract s known i
  | .tick => s.en = true → s.pinExists s.pinA = true ∧ s.pinExists s.pinB = true
  | .pins _ => True

/-- The general register a command writes (10_state.md R21). -/
def destination : Instr → List Reg
  | .nop => []
  | .ldh rd _ => [rd]
  | .ldl rd _ => [rd]
  | .rdx _ => []
  | .rdcsr rd _ => [rd]
  | .ftbuild _ => []
  | .nres rd _ _ => [rd]
  | .pcalc _ => []
  | .qinit _ _ => []
  | .qatt _ _ => []
  | .qen => []
  | .qdis => []

/-- The registers written since reset, after an input: a reset leaves none (R302), a legal command adds its destination. -/
def knownAfter (known : List Reg) : Input → List Reg
  | .rst => []
  | .cmd w => match decode w with
    | .ok i => destination i ++ known
    | .error _ => known
  | .tick => known
  | .pins _ => known

/-- `s` with other general registers and another counter of the free values. -/
def State.withUnknown (s : State) (x : Regs) (free : Nat) : State := { s with x := x, free := free }

/-- Two states that differ in nothing but the counter of the free values and the registers not in `known`. -/
def AgreeOn (known : List Reg) (s u : State) : Prop :=
  (∀ r ∈ known, u.readX r = s.readX r) ∧ u = s.withUnknown u.x u.free

end Sys2Proof.Machine
end

