-- ==== Sys2Proof/Certificates/Slice0/Obligations.lean ====
section
/-! DEFINITION. The statements for the provers, one `def Obligations.<Name> : Prop` each, in the order of OBLIGATIONS.json.
Rule numbers are those of spec/. -/

open Sys2Proof Sys2Proof.Machine

/-! ## Encoding and decoding -/

/-- R82, R84 to R86: decoding the word of a well-formed command gives the command back, every operand at every value. -/
def Obligations.DecodeOfEncodeGivesTheCommand : Prop :=
  ∀ i : Instr, i.wellFormed → decode (encode i) = .ok i

/-- R83, R86: what decodes is well-formed and is exactly the word its encoding writes; no bit of a legal word is ignored. -/
def Obligations.DecodedWordIsItsEncoding : Prop :=
  ∀ (w : Word) (i : Instr), decode w = .ok i → i.wellFormed ∧ encode i = w

/-- R86: at most one row of the opcode map matches a word. -/
def Obligations.AtMostOneRowMatches : Prop :=
  ∀ w : Word, ∀ r₁ ∈ opcodeMap, ∀ r₂ ∈ opcodeMap,
    w &&& r₁.mask = r₁.pattern → w &&& r₂.mask = r₂.pattern → r₁ = r₂

/-- R83: a word with an assigned opcode and a 1 in a must-be-zero bit of that row is illegal. -/
def Obligations.MustBeZeroBitMakesTheWordIllegal : Prop :=
  ∀ w : Word, ∀ r ∈ opcodeMap, opField w = opField r.pattern → w &&& r.mask ≠ r.pattern →
    decode w = .error .mustBeZero

/-- R88: the reserved opcodes are illegal, whatever the other bits are; the all-zero word is `NOP` and the all-one word is
illegal. -/
def Obligations.ReservedOpcodesAreIllegal : Prop :=
  (∀ w : Word,
    ((0x05 ≤ (opField w).toNat ∧ (opField w).toNat ≤ 0x0F) ∨
     (0x13 ≤ (opField w).toNat ∧ (opField w).toNat ≤ 0x1F) ∨
     (0x24 ≤ (opField w).toNat)) →
    decode w = .error .unassignedOpcode) ∧
  decode 0x00000000#32 = .ok .nop ∧ decode 0xFFFFFFFF#32 = .error .unassignedOpcode

/-- R86, R87: a word fails to decode exactly when it is one of the four kinds of illegal word. -/
def Obligations.IllegalWordsAreExactlyTheFourKinds : Prop :=
  ∀ w : Word, (∃ e, decode w = .error e) ↔ IllegalWord w

/-- Section 8 of 30_encoding.md: worked words decode to what they stand for. -/
def Obligations.WorkedWordsDecode : Prop :=
  decode 0x010001B8#32 = .ok (.ldh .x0 440) ∧
  decode 0x04C00004#32 = .ok (.rdcsr .x3 0x04) ∧
  decode 0x11400304#32 = .ok (.nres .x1 3 4) ∧
  decode 0x12100000#32 = .ok (.pcalc .x1) ∧
  decode 0x20000302#32 = .ok (.qinit 2 3) ∧
  decode 0x2110BEEF#32 = .ok (.qatt .ccw 0xBEEF) ∧
  decode 0x23000000#32 = .ok .qdis

/-! ## The step -/

/-- R14, R80, R86: when the next input is a command word that decodes to `i`, the step is `exec i` at the state from which
that input has been taken. -/
def Obligations.StepRunsTheDecodedCommand : Prop :=
  ∀ (s : State) (w : Word) (rest : List Input) (i : Instr),
    s.inputs = .cmd w :: rest → decode w = .ok i →
      i.wellFormed ∧ step s = exec i { s with inputs := rest }

/-- R87: executing a word of one of the four illegal kinds sets `ILL`, responds 0, emits nothing and changes nothing else;
the block goes on with what waits after it, and `ILL` stays 1 unless that is a reset. -/
def Obligations.IllegalWordOnlySetsIll : Prop :=
  ∀ (s : State) (w : Word) (rest : List Input), s.inputs = .cmd w :: rest → IllegalWord w →
    ∃ t, step s = .next t ∧ t.flag .ill = true ∧ Responds 0 [] s t ∧
      UnchangedBut [] [.ill] [] { s with inputs := rest } t ∧ SameTable s t ∧
      (∀ u, step t = .next u → (∀ later, rest ≠ .rst :: later) → u.flag .ill = true)

/-- The model's choice (notes/assumptions/2.md, notes/assumptions/4.md) for what the spec has no step for, after R5 ("The
block itself starts nothing"): with nothing arriving a step changes no state of the block, and no response and no event is
shown. -/
def Obligations.NothingHappensWithoutAnInput : Prop :=
  ∀ s : State, s.inputs = [] →
    ∃ t, step s = .next t ∧ UnchangedBut [] [] [] s t ∧ SameTable s t ∧
      t.rsp = none ∧ t.events = [] ∧ t.free = s.free

/-- R5: the environment sets the pins to any value; the input `pins` gives `DIN` the levels and changes no state of the
block. No response and no event is shown (notes/assumptions/4.md). -/
def Obligations.PinsInputOnlySetsTheLevels : Prop :=
  ∀ (s : State) (levels : Word) (rest : List Input), s.inputs = .pins levels :: rest →
    ∃ t, step s = .next t ∧ t.din = levels ∧ t.qs = s.qs ∧
      UnchangedBut [] [] [] { s with din := levels, inputs := rest } t ∧ SameTable s t ∧
      t.rsp = none ∧ t.events = [] ∧ t.free = s.free

/-- R15, R260: with legal parameters every step of every input completes; the block never faults, stalls or refuses. -/
def Obligations.EveryStepCompletes : Prop :=
  ∀ s : State, s.cfg.legal → ∃ t, step s = .next t

/-- R92: a command step responds with `x[rs]` for `RDX` and with 0 for every other command, legal or illegal. -/
def Obligations.OnlyRdxRespondsWithAValue : Prop :=
  ∀ (s t : State) (w : Word) (rest : List Input), s.inputs = .cmd w :: rest → step s = .next t →
    (∀ rs, decode w = .ok (.rdx rs) → t.rsp = some (s.readX rs)) ∧
    ((∀ rs, decode w ≠ .ok (.rdx rs)) → t.rsp = some 0)

/-! ## Access commands -/

/-- R110: `NOP` reads nothing and writes nothing, and a word with its opcode and any other bit set is illegal. -/
def Obligations.NopChangesNothing : Prop :=
  (∀ s : State, ∃ t, exec .nop s = .next t ∧ Responds 0 [] s t ∧ UnchangedBut [] [] [] s t ∧ SameTable s t) ∧
  (∀ w : Word, opField w = 0 → w ≠ 0 → decode w = .error .mustBeZero)

/-- R111: `LDH` puts the immediate in bits 31 to 16 and clears bits 15 to 0. -/
def Obligations.LdhLoadsTheHighHalf : Prop :=
  ∀ (rd : Reg) (imm : BitVec 16) (s : State), ∃ t, exec (.ldh rd imm) s = .next t ∧
    (t.readX rd).toNat = imm.toNat * 2 ^ 16 ∧
    Responds 0 [] s t ∧ UnchangedBut [rd] [] [] s t ∧ SameTable s t

/-- R112: `LDL` keeps bits 31 to 16 and puts the immediate in bits 15 to 0. -/
def Obligations.LdlKeepsTheHighHalf : Prop :=
  ∀ (rd : Reg) (imm : BitVec 16) (s : State), ∃ t, exec (.ldl rd imm) s = .next t ∧
    (t.readX rd).toNat = (s.readX rd).toNat / 2 ^ 16 * 2 ^ 16 + imm.toNat ∧
    Responds 0 [] s t ∧ UnchangedBut [rd] [] [] s t ∧ SameTable s t

/-- R113: `RDX` responds with the register and writes nothing. -/
def Obligations.RdxReturnsTheRegister : Prop :=
  ∀ (rs : Reg) (s : State), ∃ t, exec (.rdx rs) s = .next t ∧
    Responds (s.readX rs) [] s t ∧ UnchangedBut [] [] [] s t ∧ SameTable s t

/-- R114, with the numbers of R23 to R37: `RDCSR` copies the control register of an assigned number, and only sets `ILL` for
every other number. -/
def Obligations.RdcsrCopiesAssignedRegisters : Prop :=
  ∀ (rd : Reg) (s : State),
    (∀ a ∈ [((0x00 : BitVec 8), Csr.status), (0x01, .refpitch), (0x02, .period), (0x03, .duty), (0x04, .tc), (0x05, .dir),
        (0x06, .qstate), (0x07, .pinsel), (0x08, .cbcw), (0x09, .cbccw), (0x10, .cfgclk), (0x11, .cfgpresc),
        (0x12, .cfgpmin), (0x13, .cfgpmax), (0x14, .cfgtbl), (0x15, .cfgmisc)],
      ∃ t, exec (.rdcsr rd a.1) s = .next t ∧ t.readX rd = s.readCsr a.2 ∧
        Responds 0 [] s t ∧ UnchangedBut [rd] [] [] s t ∧ SameTable s t) ∧
    (∀ n : BitVec 8, ¬ (n.toNat ≤ 0x09 ∨ (0x10 ≤ n.toNat ∧ n.toNat ≤ 0x15)) →
      ∃ t, exec (.rdcsr rd n) s = .next t ∧ t.flag .ill = true ∧
        Responds 0 [] s t ∧ UnchangedBut [] [.ill] [] s t ∧ SameTable s t)

/-- R23: the bits of `STATUS`. -/
def Obligations.StatusHoldsTheFiveFlags : Prop :=
  ∀ s : State,
    (s.readCsr .status).toNat =
      (s.flag .tv).toNat + 2 * (s.flag .qi).toNat + 4 * (s.flag .en).toNat + 8 * (s.flag .sil).toNat +
        16 * (s.flag .ill).toNat

/-- R33 to R36: where the decoder's control registers keep their fields; every other bit reads 0. -/
def Obligations.DecoderRegistersHoldTheirFields : Prop :=
  ∀ s : State,
    (s.readCsr .dir).toNat = (if s.dir = .cw then 0 else 1) ∧
    (s.readCsr .qstate).toNat =
      (match s.qs with | .start => 0 | .cw1 => 1 | .cw2 => 2 | .cw3 => 3 | .ccw1 => 5 | .ccw2 => 6 | .ccw3 => 7) ∧
    (s.readCsr .pinsel).toNat = s.pinA.toNat + 2 ^ 8 * s.pinB.toNat ∧
    (s.readCsr .cbcw).toNat = s.cbCw.handle.toNat + 2 ^ 16 * s.cbCw.valid.toNat ∧
    (s.readCsr .cbccw).toNat = s.cbCcw.handle.toNat + 2 ^ 16 * s.cbCcw.valid.toNat

/-- R37: the configuration registers return the parameters and no step changes them. -/
def Obligations.ConfigurationRegistersAreTheParameters : Prop :=
  (∀ s : State, s.cfg.legal →
    (s.readCsr .cfgclk).toNat = s.cfg.fClk ∧
    (s.readCsr .cfgpresc).toNat = s.cfg.presc ∧
    (s.readCsr .cfgpmin).toNat = s.cfg.perMin ∧
    (s.readCsr .cfgpmax).toNat = s.cfg.perMax ∧
    ((s.readCsr .cfgtbl).toNat : Int) =
      s.cfg.nOct + 2 ^ 8 * (s.cfg.firstOct % 2 ^ 8) + 2 ^ 16 * s.cfg.octShift ∧
    (s.readCsr .cfgmisc).toNat = (if s.cfg.dirReset = .cw then 0 else 1) + 2 ^ 8 * s.cfg.npin) ∧
  (∀ s t : State, step s = .next t →
    ∀ c ∈ [Csr.cfgclk, .cfgpresc, .cfgpmin, .cfgpmax, .cfgtbl, .cfgmisc], t.readCsr c = s.readCsr c)

/-- R91: `LI xd, imm32`, presented as its two command words, loads the 32-bit constant. -/
def Obligations.LoadImmediateLoadsTheConstant : Prop :=
  ∀ (rd : Reg) (v : Word) (s : State) (rest : List Input),
    s.inputs = (assemble (pseudoLi rd v)).map Input.cmd ++ rest →
      ∃ t, core.run 2 s = .next t ∧ t.readX rd = v ∧
        UnchangedBut [rd] [] [] { s with inputs := rest } t ∧ SameTable s t

/-! ## Frequency table -/

/-- R133, R135: with legal parameters `FTBUILD` stores, for every semitone and octave index, the product with the ratio ROM
rounded as R133 says; sets `REFPITCH` and `TV`; and changes nothing else, no word beyond the table included. `stored(s, o)`
is R133's whole, saturation included; where it saturates or is 0 the spec makes the stored word unspecified (R139, U1, U2)
and nothing is said of it but that a word stands there. -/
def Obligations.FtbuildStoresEveryEntry : Prop :=
  ∀ (rs : Reg) (s : State), s.cfg.legal → ∃ t, exec (.ftbuild rs) s = .next t ∧
    (∀ o < s.cfg.nOct, ∀ semitone < 12, ∃ v, Memory.read t.ft (12 * o + semitone) = some v ∧
      ∀ V : Nat,
        V = ((s.readX rs).toNat * rom semitone + 2 ^ (29 + s.cfg.octShift - o)) / 2 ^ (30 + s.cfg.octShift - o) →
          (storedValue s.cfg (s.readX rs) semitone o).toNat = min V (2 ^ 32 - 1) ∧
          (1 ≤ V → V < 2 ^ 32 → v = storedValue s.cfg (s.readX rs) semitone o)) ∧
    (∀ k, 12 * s.cfg.nOct ≤ k → Memory.read t.ft k = Memory.read s.ft k) ∧
    t.readCsr .refpitch = s.readX rs ∧ t.flag .tv = true ∧
    Responds 0 [] s t ∧ UnchangedBut [] [.tv] [.refpitch] s t

/-- R136: the new table replaces the old one wholly: no word of the old one is left, so the table is the same whatever stood
in it before. -/
def Obligations.FtbuildReplacesTheWholeTable : Prop :=
  ∀ (rs : Reg) (s : State), TableWf s → ∃ t, exec (.ftbuild rs) s = .next t ∧
    t.ft = tableEntries s.cfg (s.readX rs) ∧ t.ft.length = 12 * s.cfg.nOct

/-- R137: executing `FTBUILD` twice with the same register leaves what executing it once leaves. -/
def Obligations.FtbuildIsIdempotent : Prop :=
  ∀ (rs : Reg) (s : State), Memory.wf s.ft →
    ∃ t, exec (.ftbuild rs) s = .next t ∧ exec (.ftbuild rs) t = .next t

/-- R42: every entry of the ratio ROM is within one half of `2^(s/12) * 2^30`. -/
def Obligations.RomEntriesAreTheRoundedRatios : Prop :=
  ∀ semitone : Nat, semitone < 12 →
    |(rom semitone : ℝ) - (2 : ℝ) ^ ((semitone : ℝ) / 12) * 2 ^ 30| < 1 / 2

/-- R134, with the ideal value of R130 and the `basePitch` of R131: the accuracy of a stored value that does not saturate,
and its exactness for semitone 0 at and above the reference octave. -/
def Obligations.StoredValueIsNearTheIdealPitch : Prop :=
  ∀ (p : Params) (ref : Word) (semitone o : Nat), p.legal → semitone < 12 → o < p.nOct →
    entryValue p ref semitone o < 2 ^ 32 →
      |((storedValue p ref semitone o).toNat : ℝ) / 65536 -
          ((ref.toNat : ℝ) / 65536 / 2 ^ p.octShift) * ((2 : ℝ) ^ ((1 : ℝ) / 12)) ^ (semitone + 12 * o)| ≤
        1 / 2 ^ 17 + (ref.toNat : ℝ) / 65536 * (2 : ℝ) ^ ((o : ℤ) - (p.octShift : ℤ)) / 2 ^ 31 ∧
      (semitone = 0 → p.octShift ≤ o →
        (storedValue p ref semitone o).toNat = ref.toNat * 2 ^ (o - p.octShift))

/-- R61: R133's values read in index order never fall, whatever the pitch; so with `TV = 1` neither do the words of the table,
where they may be relied on (U2: neither rounded to 0 nor saturated). -/
def Obligations.TableRisesInIndexOrder : Prop :=
  (∀ (p : Params) (ref : Word) (k : Nat), p.legal → k + 1 < 12 * p.nOct →
    (storedValue p ref (k % 12) (k / 12)).toNat ≤ (storedValue p ref ((k + 1) % 12) ((k + 1) / 12)).toNat) ∧
  (∀ (s : State) (k : Nat), Inv s → s.flag .tv = true → k + 1 < 12 * s.cfg.nOct →
    EntryInContract s.cfg s.refPitch (k % 12) (k / 12) →
    EntryInContract s.cfg s.refPitch ((k + 1) % 12) ((k + 1) / 12) →
      ∃ u v, Memory.read s.ft k = some u ∧ Memory.read s.ft (k + 1) = some v ∧ u.toNat ≤ v.toNat)

/-- R142, R141: what `NRES` does with every pair of note fields. `Rest` (`name` 15, `oct` 0) resolves to the silence sentinel,
table built or not; a tone resolves to the word of the table at its semitone and clamped octave, whatever that word is;
every other pair is reserved, sets `ILL` and leaves the destination. -/
def Obligations.NresResolvesEveryNote : Prop :=
  ∀ (rd : Reg) (name : BitVec 4) (oct : BitVec 8) (s : State),
    if name.toNat = 15 ∧ oct.toInt = 0 then
      ∃ t, exec (.nres rd name oct) s = .next t ∧ t.readX rd = 0 ∧
        Responds 0 [] s t ∧ UnchangedBut [rd] [] [] s t ∧ SameTable s t
    else if name.toNat ≤ 11 then
      s.cfg.legal → ∀ v, Memory.read s.ft
        (12 * min (max (oct.toInt - s.cfg.firstOct) 0) ((s.cfg.nOct : Int) - 1) + (name.toNat : Int)).toNat = some v →
        ∃ t, exec (.nres rd name oct) s = .next t ∧ t.readX rd = v ∧
          Responds 0 [] s t ∧ UnchangedBut [rd] [] [] s t ∧ SameTable s t
    else
      ∃ t, exec (.nres rd name oct) s = .next t ∧ t.flag .ill = true ∧
        Responds 0 [] s t ∧ UnchangedBut [] [.ill] [] s t ∧ SameTable s t

/-- The model's choice for U3 (notes/assumptions/7.md): a tone whose table word nothing has written resolves to a free value,
a fresh one each time; everything else is as R142 says. -/
def Obligations.NresOfAnUnwrittenWordIsFree : Prop :=
  ∀ (rd : Reg) (name : BitVec 4) (oct : BitVec 8) (s : State), s.cfg.legal → name.toNat ≤ 11 →
    Memory.read s.ft
      (12 * min (max (oct.toInt - s.cfg.firstOct) 0) ((s.cfg.nOct : Int) - 1) + (name.toNat : Int)).toNat = none →
      ∃ t, exec (.nres rd name oct) s = .next t ∧ t.readX rd = Config.freeWord s.free ∧ t.free = s.free + 1 ∧
        t.rsp = some 0 ∧ t.events = [] ∧ UnchangedBut [rd] [] [] s t ∧ SameTable s t

/-- R143: an octave number above the top octave resolves as the top octave, one below the first as the first, the semitone
unchanged. -/
def Obligations.OctavesBeyondTheTableClamp : Prop :=
  ∀ (rd : Reg) (name : BitVec 4) (oct : BitVec 8) (s : State), s.cfg.legal → name.toNat ≤ 11 →
    (s.cfg.firstOct + s.cfg.nOct - 1 < oct.toInt →
      exec (.nres rd name oct) s = exec (.nres rd name (BitVec.ofInt 8 (s.cfg.firstOct + s.cfg.nOct - 1))) s) ∧
    (oct.toInt < s.cfg.firstOct →
      exec (.nres rd name oct) s = exec (.nres rd name (BitVec.ofInt 8 s.cfg.firstOct)) s)

/-- R145: with a table built from a pitch that is positive and not absurd, no tone resolves to the silence sentinel. -/
def Obligations.TonesAreNeverSilentInContract : Prop :=
  ∀ (rd : Reg) (name : BitVec 4) (oct : BitVec 8) (s : State), Inv s → s.flag .tv = true →
    PitchInContract s.cfg s.refPitch → name.toNat ≤ 11 →
      ∃ t, exec (.nres rd name oct) s = .next t ∧ t.readX rd ≠ 0

/-- U2, R145: under `CFG-REF` the pitches that are not absurd are exactly 0x00000004 to 0x0879C7C9. -/
def Obligations.CfgRefPitchRange : Prop :=
  ∀ ref : Word, PitchInContract Config.cfgRef ref ↔ (0x00000004 ≤ ref.toNat ∧ ref.toNat ≤ 0x0879C7C9)

/-! ## Period calculator -/

/-- R161 to R165: `PCALC` of the silence sentinel sets `SIL` and holds `PERIOD` and `DUTY`; of any other frequency it stores
the clamped exact quotient and half of it, clears `SIL` and emits the timer load. -/
def Obligations.PcalcComputesOrSilences : Prop :=
  ∀ (rs : Reg) (s : State),
    if s.readX rs = 0 then
      ∃ t, exec (.pcalc rs) s = .next t ∧ t.flag .sil = true ∧
        Responds 0 [.timerSilence] s t ∧ UnchangedBut [] [.sil] [] s t ∧ SameTable s t
    else
      s.cfg.legal → ∃ t, exec (.pcalc rs) s = .next t ∧
        (t.readCsr .period).toNat =
          min (max (s.cfg.fClk * 65536 / (s.cfg.presc * (s.readX rs).toNat)) s.cfg.perMin) s.cfg.perMax ∧
        (t.readCsr .duty).toNat = (t.readCsr .period).toNat / 2 ∧
        t.flag .sil = false ∧
        Responds 0 [.timerLoad (t.readCsr .period) (t.readCsr .duty)] s t ∧
        UnchangedBut [] [.sil] [.period, .duty] s t ∧ SameTable s t

/-- R168: a higher frequency never gives a longer period. -/
def Obligations.PeriodNeverRisesWithFrequency : Prop :=
  ∀ (r₁ r₂ : Reg) (s t₁ t₂ : State), s.cfg.legal → s.readX r₁ ≠ 0 → (s.readX r₁).toNat ≤ (s.readX r₂).toNat →
    exec (.pcalc r₁) s = .next t₁ → exec (.pcalc r₂) s = .next t₂ →
      (t₂.readCsr .period).toNat ≤ (t₁.readCsr .period).toNat

/-- R169: where no clamp applies, the tone `F_CLK / (PRESC * p)` Hz is at or above the frequency asked for, by less than one
part in `p`; in integers, with the frequency in units of 1/65536 Hz. A quotient at an end of the range is unclamped. -/
def Obligations.ToneIsNearTheRequestedFrequency : Prop :=
  ∀ (rs : Reg) (s : State), s.cfg.legal → s.readX rs ≠ 0 →
    s.cfg.perMin ≤ s.cfg.fClk * 65536 / (s.cfg.presc * (s.readX rs).toNat) →
    s.cfg.fClk * 65536 / (s.cfg.presc * (s.readX rs).toNat) ≤ s.cfg.perMax →
      ∃ t, exec (.pcalc rs) s = .next t ∧
        (s.readX rs).toNat * s.cfg.presc * (t.readCsr .period).toNat ≤ s.cfg.fClk * 65536 ∧
        s.cfg.fClk * 65536 < (s.readX rs).toNat * s.cfg.presc * ((t.readCsr .period).toNat + 1)

/-! ## Quadrature decoder -/

/-- R193: `QINIT` selects the pins, clears the count, the direction and the state, enables the decoder and keeps the callback
slots. -/
def Obligations.QinitStartsTheDecoder : Prop :=
  ∀ (pina pinb : BitVec 5) (s : State), ∃ t, exec (.qinit pina pinb) s = .next t ∧
    (t.readCsr .pinsel).toNat = pina.toNat + 2 ^ 8 * pinb.toNat ∧ t.readCsr .tc = 0 ∧ t.dir = s.cfg.dirReset ∧
    t.qs = .start ∧ t.flag .qi = true ∧ t.flag .en = true ∧
    Responds 0 [] s t ∧ UnchangedBut [] [.qi, .en] [.pinsel, .tc, .dir, .qstate] s t ∧ SameTable s t

/-- R194: `QATT` fills the slot of its direction and leaves the other one. -/
def Obligations.QattFillsItsSlot : Prop :=
  ∀ (d : Dir) (handle : BitVec 16) (s : State), ∃ t, exec (.qatt d handle) s = .next t ∧
    t.slot d = { valid := true, handle := handle } ∧ (∀ d', d' ≠ d → t.slot d' = s.slot d') ∧
    Responds 0 [] s t ∧ UnchangedBut [] [] [if d = .cw then .cbcw else .cbccw] s t ∧ SameTable s t

/-- R195: `QEN` puts a disabled decoder at `Start` and enables it, and changes nothing of an enabled one. -/
def Obligations.QenEnablesFromStart : Prop :=
  ∀ s : State, ∃ t, exec .qen s = .next t ∧ t.flag .en = true ∧
    (s.flag .en = false → t.qs = .start) ∧ (s.flag .en = true → t.qs = s.qs) ∧
    Responds 0 [] s t ∧ UnchangedBut [] [.en] [.qstate] s t ∧ SameTable s t

/-- R196: `QDIS` clears `EN` and freezes everything else, and a tick right after it is dropped. -/
def Obligations.QdisDisables : Prop :=
  ∀ s : State, ∃ t, exec .qdis s = .next t ∧ t.flag .en = false ∧
    Responds 0 [] s t ∧ UnchangedBut [] [.en] [] s t ∧ SameTable s t ∧
    (∀ rest, s.inputs = .tick :: rest →
      ∃ u, step t = .next u ∧ UnchangedBut [] [] [] { t with inputs := rest } u ∧ SameTable t u ∧
        u.rsp = none ∧ u.events = [] ∧ u.free = t.free)

/-- R181, R184 to R190: the table of R183 from the patterns of the states. On a path, the next state's pattern advances, the
previous state's pattern steps back, (0,0) at the third state commits and returns to `Start`, and every other pattern
holds; from `Start`, a first state's pattern begins its path and every other pattern holds. -/
def Obligations.DecoderTableFollowsThePatterns : Prop :=
  ∀ a b : Bool,
    qnext .start a b = (if (a, b) = (true, false) then (.cw1, none) else if (a, b) = (false, true) then (.ccw1, none) else (.start, none)) ∧
    qnext .cw1 a b = (if (a, b) = (true, true) then (.cw2, none) else if (a, b) = (false, false) then (.start, none) else (.cw1, none)) ∧
    qnext .cw2 a b = (if (a, b) = (false, true) then (.cw3, none) else if (a, b) = (true, false) then (.cw1, none) else (.cw2, none)) ∧
    qnext .cw3 a b = (if (a, b) = (false, false) then (.start, some .cw) else if (a, b) = (true, true) then (.cw2, none) else (.cw3, none)) ∧
    qnext .ccw1 a b = (if (a, b) = (true, true) then (.ccw2, none) else if (a, b) = (false, false) then (.start, none) else (.ccw1, none)) ∧
    qnext .ccw2 a b = (if (a, b) = (true, false) then (.ccw3, none) else if (a, b) = (false, true) then (.ccw1, none) else (.ccw2, none)) ∧
    qnext .ccw3 a b = (if (a, b) = (false, false) then (.start, some .ccw) else if (a, b) = (true, true) then (.ccw2, none) else (.ccw3, none))

/-- R182, R199: the tick step. A disabled decoder drops the tick. An enabled one samples the two selected pins once, moves by
the table, and at a commit counts by one modulo 2^32, records the direction and emits the callback's event if one is
attached. Either way no general register, no flag, no table word and no other control register changes, and there is no
response. A selected pin that does not exist gives a free bit and is `OnePinNeverLeavesStart`'s case and U7's. -/
def Obligations.TickStepFollowsItsRule : Prop :=
  ∀ (s : State) (rest : List Input), s.inputs = .tick :: rest →
    (s.flag .en = false →
      ∃ t, step s = .next t ∧ t.rsp = none ∧ t.events = [] ∧ t.free = s.free ∧
        UnchangedBut [] [] [] { s with inputs := rest } t ∧ SameTable s t) ∧
    (s.flag .en = true → s.pinA.toNat < s.cfg.npin → s.pinB.toNat < s.cfg.npin →
      ∀ a b, ShowsPattern s s.din a b →
        ∃ t, step s = .next t ∧ t.qs = (qnext s.qs a b).1 ∧
          ((qnext s.qs a b).2 = none → t.readCsr .tc = s.readCsr .tc ∧ t.dir = s.dir ∧ t.events = []) ∧
          (∀ d, (qnext s.qs a b).2 = some d →
            (t.readCsr .tc).toInt = ((s.readCsr .tc).toInt + (if d = .cw then 1 else -1)).bmod (2 ^ 32) ∧ t.dir = d ∧
            t.events = (if (s.slot d).valid then [.callback d (s.slot d).handle] else [])) ∧
          t.rsp = none ∧ t.free = s.free ∧
          UnchangedBut [] [] [.tc, .dir, .qstate] { s with inputs := rest } t ∧ SameTable s t)

/-- The model's choice for U7 (notes/assumptions/10.md): a tick of an enabled decoder whose selected pins may not exist still
follows the rule of the tick step, on some pair of samples: a pin that exists gives its level, one pin gives one bit; the
state, the count, the direction and the event are those of that pair. -/
def Obligations.AbsentPinsStillFollowTheTable : Prop :=
  ∀ (s : State) (rest : List Input), s.inputs = .tick :: rest → s.flag .en = true →
    ∃ a b t, step s = .next t ∧
      (s.pinA.toNat < s.cfg.npin → a = s.din.getLsbD s.pinA.toNat) ∧
      (s.pinB.toNat < s.cfg.npin → b = s.din.getLsbD s.pinB.toNat) ∧ (s.pinA = s.pinB → a = b) ∧
      t.qs = (qnext s.qs a b).1 ∧
      ((qnext s.qs a b).2 = none → t.readCsr .tc = s.readCsr .tc ∧ t.dir = s.dir ∧ t.events = []) ∧
      (∀ d, (qnext s.qs a b).2 = some d →
        (t.readCsr .tc).toInt = ((s.readCsr .tc).toInt + (if d = .cw then 1 else -1)).bmod (2 ^ 32) ∧ t.dir = d ∧
        t.events = (if (s.slot d).valid then [.callback d (s.slot d).handle] else [])) ∧
      t.rsp = none ∧ UnchangedBut [] [] [.tc, .dir, .qstate] { s with inputs := rest } t ∧ SameTable s t

/-- R202 (a), R44 (g): the count changes only by a commit, in a tick that takes `CW3` or `CCW3` to `Start`, or to 0 by
`QINIT` or reset. -/
def Obligations.CountChangesOnlyAtCommitOrInit : Prop :=
  ∀ s t : State, step s = .next t → t.readCsr .tc ≠ s.readCsr .tc →
    (∃ rest, s.inputs = .tick :: rest ∧ s.flag .en = true ∧ t.qs = .start ∧
      ((s.qs = .cw3 ∧ t.readCsr .tc = s.readCsr .tc + 1 ∧ t.dir = .cw) ∨
       (s.qs = .ccw3 ∧ t.readCsr .tc = s.readCsr .tc - 1 ∧ t.dir = .ccw))) ∨
    (∃ w pina pinb rest, s.inputs = .cmd w :: rest ∧ decode w = .ok (.qinit pina pinb) ∧ t.readCsr .tc = 0) ∨
    (∃ rest, s.inputs = .rst :: rest ∧ t.readCsr .tc = 0)

/-- R202 (c): no step moves the decoder from one path to the other. -/
def Obligations.PathsMeetOnlyAtStart : Prop :=
  ∀ s t : State, step s = .next t →
    (s.qs.onCw = true → t.qs.onCcw = false) ∧ (s.qs.onCcw = true → t.qs.onCw = false)

/-- R202 (b), (d): since the decoder last was at `Start`, a clockwise commit needs the states `CW1`, `CW2`, `CW3` visited in
order on the samples (1,0), (1,1), (0,1) in that order, and then (0,0); mirrored for counter-clockwise. -/
def Obligations.CommitNeedsTheFullRotation : Prop :=
  ∀ (ps : List (Bool × Bool)) (a b : Bool), StaysOffStart .start ps →
    ((qnext (decoderRun .start ps) a b).2 = some .cw →
      [(true, false), (true, true), (false, true)].Sublist ps ∧ (a, b) = (false, false) ∧
      [QState.cw1, .cw2, .cw3].Sublist (decoderTrace .start ps)) ∧
    ((qnext (decoderRun .start ps) a b).2 = some .ccw →
      [(false, true), (true, true), (true, false)].Sublist ps ∧ (a, b) = (false, false) ∧
      [QState.ccw1, .ccw2, .ccw3].Sublist (decoderTrace .start ps))

/-- R201: from `Start`, a sequence of ticks and pin changes that changes the count has at least four ticks. -/
def Obligations.CommitNeedsFourTicks : Prop :=
  ∀ (is : List Input) (s t : State), (∀ i ∈ is, i = .tick ∨ ∃ levels, i = .pins levels) → s.qs = .start →
    s.inputs = is → core.run is.length s = .next t → t.readCsr .tc ≠ s.readCsr .tc → 4 ≤ is.count .tick

/-- R202 (e): the document's exact clockwise pin sequence commits plus one with direction CW, and the mirrored one minus one
with CCW, with the callback's event if one is attached. -/
def Obligations.ExactRotationCommitsOnce : Prop :=
  ∀ (s : State) (rest : List Input) (l₀ l₁ l₂ l₃ l₄ : Word) (d : Dir),
    s.flag .en = true → s.qs = .start → s.pinA.toNat < s.cfg.npin → s.pinB.toNat < s.cfg.npin →
    s.inputs = [.pins l₀, .tick, .pins l₁, .tick, .pins l₂, .tick, .pins l₃, .tick, .pins l₄, .tick] ++ rest →
    ShowsPattern s l₀ false false → ShowsPattern s l₂ true true → ShowsPattern s l₄ false false →
    ShowsPattern s l₁ (decide (d = .cw)) (decide (d = .ccw)) → ShowsPattern s l₃ (decide (d = .ccw)) (decide (d = .cw)) →
      ∃ t, core.run 10 s = .next t ∧ t.qs = .start ∧ t.dir = d ∧
        t.readCsr .tc = (if d = .cw then s.readCsr .tc + 1 else s.readCsr .tc - 1) ∧
        t.events = (if (s.slot d).valid then [.callback d (s.slot d).handle] else []) ∧ t.inputs = rest

/-- R196, R265: while the decoder is disabled, no number of ticks and pin changes moves its state, its count or its
direction. -/
def Obligations.DisabledDecoderIsFrozen : Prop :=
  ∀ (is rest : List Input) (s : State), (∀ i ∈ is, i = .tick ∨ ∃ levels, i = .pins levels) →
    s.inputs = is ++ rest → s.flag .en = false →
      ∃ t, core.run is.length s = .next t ∧ t.inputs = rest ∧ t.flag .en = false ∧
        ∀ c ∈ [Csr.tc, .dir, .qstate], t.readCsr c = s.readCsr c

/-- R193, U6, U7: with both selectors on one pin, existing or not, no number of ticks and pin changes takes the decoder from
`Start` or changes the count. -/
def Obligations.OnePinNeverLeavesStart : Prop :=
  ∀ (is rest : List Input) (s : State), (∀ i ∈ is, i = .tick ∨ ∃ levels, i = .pins levels) →
    s.inputs = is ++ rest → s.pinA = s.pinB → s.qs = .start →
      ∃ t, core.run is.length s = .next t ∧ t.inputs = rest ∧ t.qs = .start ∧ t.readCsr .tc = s.readCsr .tc

/-! ## Events -/

/-- R268, R269: a callback line is 1 exactly in a tick step that commits in its direction with the slot attached, and then
shows the slot's handle; the two lines are never 1 together; `TimerLoad` and `TimerSilence` are emitted exactly by
`PCALC`, of a frequency and of the sentinel. -/
def Obligations.EventsComeOnlyFromTheirSources : Prop :=
  ∀ s t : State, step s = .next t →
    (t.evtCwO = true ↔ (∃ rest, s.inputs = .tick :: rest) ∧ s.flag .en = true ∧ s.qs = .cw3 ∧ t.qs = .start ∧
      s.cbCw.valid = true) ∧
    (t.evtCcwO = true ↔ (∃ rest, s.inputs = .tick :: rest) ∧ s.flag .en = true ∧ s.qs = .ccw3 ∧ t.qs = .start ∧
      s.cbCcw.valid = true) ∧
    (t.evtCwO = true → t.evtHandleO = some s.cbCw.handle) ∧ (t.evtCcwO = true → t.evtHandleO = some s.cbCcw.handle) ∧
    ¬ (t.evtCwO = true ∧ t.evtCcwO = true) ∧
    (t.loadO = true ↔ ∃ w rs rest, s.inputs = .cmd w :: rest ∧ decode w = .ok (.pcalc rs) ∧ s.readX rs ≠ 0) ∧
    (Event.timerSilence ∈ t.events ↔
      ∃ w rs rest, s.inputs = .cmd w :: rest ∧ decode w = .ok (.pcalc rs) ∧ s.readX rs = 0)

/-! ## Reset and the invariants -/

/-- R300, R45: the reset step gives every control register its reset value and emits nothing. Of the general registers and
the table nothing is said: they are unspecified. -/
def Obligations.ResetStepSetsTheResetValues : Prop :=
  ∀ (s : State) (rest : List Input), s.inputs = .rst :: rest →
    ∃ t, step s = .next t ∧ t.readCsr .status = 0x00000008 ∧
      (∀ c ∈ [Csr.refpitch, .period, .duty, .tc, .qstate, .pinsel, .cbcw, .cbccw], t.readCsr c = 0) ∧
      t.dir = s.cfg.dirReset ∧ t.cfg = s.cfg ∧ t.events = [] ∧
      t.evtCwO = false ∧ t.evtCcwO = false ∧ t.loadO = false

/-- The model's choice: a reset step leaves the pins as they are (notes/assumptions/3.md) and the later inputs waiting
(notes/assumptions/2.md), and shows no response (notes/assumptions/4.md). -/
def Obligations.ResetStepKeepsTheInputs : Prop :=
  ∀ (s : State) (rest : List Input), s.inputs = .rst :: rest →
    ∃ t, step s = .next t ∧ t.din = s.din ∧ t.inputs = rest ∧ t.rsp = none

/-- R45: `State.resetWith p` has the reset values of an instance with the parameters `p`. Its general registers are the
model's choice (notes/assumptions/5.md) and nothing is said of them. -/
def Obligations.ResetStateHasTheResetValues : Prop :=
  ∀ p : Params,
    (State.resetWith p).readCsr .status = 0x00000008 ∧
    (∀ c ∈ [Csr.refpitch, .period, .duty, .tc, .qstate, .pinsel, .cbcw, .cbccw], (State.resetWith p).readCsr c = 0) ∧
    (State.resetWith p).dir = p.dirReset ∧ (State.resetWith p).cfg = p ∧
    (State.resetWith p).evtCwO = false ∧ (State.resetWith p).evtCcwO = false ∧ (State.resetWith p).loadO = false

/-- R44: the invariant holds right after reset, whatever legal parameters the instance has. -/
def Obligations.InvariantHoldsAtReset : Prop :=
  (∀ p : Params, p.legal → Inv (State.resetWith p)) ∧ Inv State.reset

/-- R44 (b), (c), (e): every step keeps the invariant: `DUTY` is half of `PERIOD`, the period is in range unless silenced,
the built table matches the reference pitch, the table memory is canonical, the parameters are legal. -/
def Obligations.EveryStepKeepsTheInvariant : Prop :=
  ∀ s t : State, Inv s → step s = .next t → Inv t

/-- R44 (d), R301: `TV`, `QI`, `ILL` and a slot's `valid` bit go from 1 to 0 only by reset. -/
def Obligations.StickyBitsFallOnlyAtReset : Prop :=
  ∀ s t : State, step s = .next t → (∀ rest, s.inputs ≠ .rst :: rest) →
    (∀ f ∈ [Flag.tv, .qi, .ill], s.flag f = true → t.flag f = true) ∧
    (∀ d, (s.slot d).valid = true → (t.slot d).valid = true)

/-- R21, R117: only `LDH`, `LDL`, `RDCSR` and `NRES` change a general register, and only their own; only `FTBUILD` changes a
word of the table. -/
def Obligations.OnlyTheirCommandsWriteRegistersAndTable : Prop :=
  ∀ (i : Instr) (s t : State), exec i s = .next t →
    (∀ r, t.readX r ≠ s.readX r →
      (∃ imm, i = .ldh r imm) ∨ (∃ imm, i = .ldl r imm) ∨ (∃ n, i = .rdcsr r n) ∨ (∃ name oct, i = .nres r name oct)) ∧
    (∀ k, Memory.read t.ft k ≠ Memory.read s.ft k → ∃ rs, i = .ftbuild rs)

/-- R24 to R37: what can change each flag and control register in a step that is not a reset step: `TV` and `REFPITCH`
`FTBUILD`; `QI` and `PINSEL` `QINIT`; `EN` `QINIT`, `QEN` and `QDIS`; `ILL` an illegal word; `PERIOD`, `DUTY` and `SIL`
`PCALC`; `TC` and `DIR` a commit and `QINIT`; `QSTATE` the tick of an enabled decoder, `QINIT` and the `QEN` of a disabled
one; a callback slot `QATT` of its direction; a configuration register nothing. -/
def Obligations.OnlyTheirWritersChangeControlRegisters : Prop :=
  ∀ s t : State, step s = .next t → (∀ rest, s.inputs ≠ .rst :: rest) →
    (t.readCsr .refpitch ≠ s.readCsr .refpitch ∨ t.flag .tv ≠ s.flag .tv →
      ∃ w rs rest, s.inputs = .cmd w :: rest ∧ decode w = .ok (.ftbuild rs)) ∧
    (t.readCsr .period ≠ s.readCsr .period ∨ t.readCsr .duty ≠ s.readCsr .duty ∨ t.flag .sil ≠ s.flag .sil →
      ∃ w rs rest, s.inputs = .cmd w :: rest ∧ decode w = .ok (.pcalc rs)) ∧
    (t.readCsr .pinsel ≠ s.readCsr .pinsel ∨ t.flag .qi ≠ s.flag .qi →
      ∃ w pina pinb rest, s.inputs = .cmd w :: rest ∧ decode w = .ok (.qinit pina pinb)) ∧
    (t.flag .en ≠ s.flag .en →
      ∃ w rest, s.inputs = .cmd w :: rest ∧
        (decode w = .ok .qen ∨ decode w = .ok .qdis ∨ ∃ pina pinb, decode w = .ok (.qinit pina pinb))) ∧
    (t.flag .ill ≠ s.flag .ill → ∃ w e rest, s.inputs = .cmd w :: rest ∧ decode w = .error e) ∧
    (t.readCsr .tc ≠ s.readCsr .tc ∨ t.readCsr .dir ≠ s.readCsr .dir →
      ((∃ rest, s.inputs = .tick :: rest) ∧ s.flag .en = true ∧ (s.qs = .cw3 ∨ s.qs = .ccw3) ∧ t.qs = .start) ∨
      (∃ w pina pinb rest, s.inputs = .cmd w :: rest ∧ decode w = .ok (.qinit pina pinb))) ∧
    (t.readCsr .qstate ≠ s.readCsr .qstate →
      ((∃ rest, s.inputs = .tick :: rest) ∧ s.flag .en = true) ∨
      (∃ w rest, s.inputs = .cmd w :: rest ∧
        ((decode w = .ok .qen ∧ s.flag .en = false) ∨ ∃ pina pinb, decode w = .ok (.qinit pina pinb)))) ∧
    (∀ d, t.slot d ≠ s.slot d →
      ∃ w handle rest, s.inputs = .cmd w :: rest ∧ decode w = .ok (.qatt d handle)) ∧
    (∀ c ∈ [Csr.cfgclk, .cfgpresc, .cfgpmin, .cfgpmax, .cfgtbl, .cfgmisc], t.readCsr c = s.readCsr c)

/-- U3, U7, U9, R302 (notes/assumptions/6.md, 7.md, 10.md): within the caller's contract a step draws no new free value (a
reset step apart), and its result depends neither on the counter that picks free values nor on a general register that no
command has written since reset: two states that differ in nothing else step to states that differ in nothing else. -/
def Obligations.ContractUsesNoFreeValue : Prop :=
  ∀ (s u : State) (i : Input) (rest : List Input) (known : List Reg),
    Inv s → s.inputs = i :: rest → InputInContract s known i → AgreeOn known s u →
      ∃ t v, step s = .next t ∧ step u = .next v ∧ AgreeOn (knownAfter known i) t v ∧
        (i ≠ .rst → t.free = s.free ∧ v.free = u.free)
end

