-- ==== Sys2Proof/Laws/Memory.lean ====
section
/-! SUPPORT. The laws of the table memory: a read after a write, the canonical form kept by every operation, and canonical
memories equal when they read alike. -/
namespace Sys2Proof.Machine

@[simp] theorem Memory.read_nil (k : Nat) : Memory.read [] k = none := rfl

theorem Memory.read_cons (j k : Nat) (v : Word) (m : Memory) :
    Memory.read ((j, v) :: m) k = if k = j then some v else Memory.read m k := rfl

/-- A word just written reads back. -/
@[simp] theorem Memory.read_write_same (m : Memory) (k : Nat) (v : Word) :
    Memory.read (Memory.write m k v) k = some v := by
  induction m with
  | nil => simp [Memory.write, Memory.read_cons]
  | cons e m ih =>
    obtain ⟨j, u⟩ := e
    simp only [Memory.write]
    split
    · simp [Memory.read_cons]
    · split
      · simp [Memory.read_cons]
      · simp [Memory.read_cons, *]

/-- A write leaves every other word alone. -/
theorem Memory.read_write_other (m : Memory) {k k' : Nat} (h : k' ≠ k) (v : Word) :
    Memory.read (Memory.write m k v) k' = Memory.read m k' := by
  induction m with
  | nil => simp [Memory.write, Memory.read_cons, h]
  | cons e m ih =>
    obtain ⟨j, u⟩ := e
    simp only [Memory.write]
    split
    · simp [Memory.read_cons, h]
    · split
      · subst_vars; simp [Memory.read_cons, h]
      · simp [Memory.read_cons, ih]

theorem Memory.read_write (m : Memory) (k k' : Nat) (v : Word) :
    Memory.read (Memory.write m k v) k' = if k' = k then some v else Memory.read m k' := by
  split
  · subst_vars; simp
  · exact Memory.read_write_other m (by assumption) v

/-- What a write lists: the new word, or an entry of the old memory. -/
theorem Memory.mem_write {m : Memory} {k : Nat} {v : Word} {e : Nat × Word} (h : e ∈ Memory.write m k v) :
    e = (k, v) ∨ e ∈ m := by
  induction m with
  | nil => simpa [Memory.write] using h
  | cons d m ih =>
    obtain ⟨j, u⟩ := d
    simp only [Memory.write] at h
    split at h
    · simpa using h
    · split at h
      · simp only [List.mem_cons] at h ⊢; tauto
      · simp only [List.mem_cons] at h ⊢
        rcases h with h | h
        · exact .inr (.inl h)
        · rcases ih h with h | h
          · exact .inl h
          · exact .inr (.inr h)

/-- A write keeps the canonical form. -/
theorem Memory.wf_write {m : Memory} (h : Memory.wf m) (k : Nat) (v : Word) : Memory.wf (Memory.write m k v) := by
  induction m with
  | nil => simp [Memory.write, Memory.wf]
  | cons d m ih =>
    obtain ⟨j, u⟩ := d
    have hm := List.pairwise_cons.1 h
    simp only [Memory.write]
    split
    · refine List.pairwise_cons.2 ⟨fun e he => ?_, h⟩
      rcases List.mem_cons.1 he with rfl | he
      · simpa
      · have := hm.1 e he; simp only at this ⊢; omega
    · split
      · subst_vars; exact List.pairwise_cons.2 ⟨hm.1, hm.2⟩
      · refine List.pairwise_cons.2 ⟨fun e he => ?_, ih hm.2⟩
        rcases Memory.mem_write he with rfl | he
        · simp only; omega
        · exact hm.1 e he

/-- An index that is not listed has no value. -/
theorem Memory.read_eq_none {m : Memory} {k : Nat} (h : ∀ e ∈ m, e.1 ≠ k) : Memory.read m k = none := by
  induction m with
  | nil => rfl
  | cons d m ih =>
    obtain ⟨j, u⟩ := d
    have hj : k ≠ j := fun e => h (j, u) (by simp) e.symm
    simp only [Memory.read_cons, hj, if_false]
    exact ih fun e he => h e (by simp [he])

/-- A word that reads is listed. -/
theorem Memory.mem_of_read {m : Memory} {k : Nat} {v : Word} (h : Memory.read m k = some v) : (k, v) ∈ m := by
  induction m with
  | nil => simp at h
  | cons d m ih =>
    obtain ⟨j, u⟩ := d
    simp only [Memory.read_cons] at h
    split at h
    · simp_all
    · simp [ih h]

/-- A word listed in a canonical memory reads. -/
theorem Memory.read_of_mem {m : Memory} (hm : Memory.wf m) {k : Nat} {v : Word} (h : (k, v) ∈ m) :
    Memory.read m k = some v := by
  induction m with
  | nil => simp at h
  | cons d m ih =>
    obtain ⟨j, u⟩ := d
    have hp := List.pairwise_cons.1 hm
    rcases List.mem_cons.1 h with h | h
    · simp_all [Memory.read_cons]
    · have := hp.1 _ h
      simp only at this
      simp only [Memory.read_cons, show k ≠ j by omega, if_false]
      exact ih hp.2 h

/-- Canonical memories that read alike are equal. -/
theorem Memory.ext {m n : Memory} (hm : Memory.wf m) (hn : Memory.wf n)
    (h : ∀ k, Memory.read m k = Memory.read n k) : m = n := by
  refine List.Perm.eq_of_pairwise (le := fun a b : Nat × Word => a.1 < b.1)
    (fun a b _ _ h1 h2 => absurd h1 (by omega)) hm hn ?_
  refine (List.perm_ext_iff_of_nodup ?_ ?_).2 ?_
  · exact hm.imp fun {a b} hab e => by subst e; omega
  · exact hn.imp fun {a b} hab e => by subst e; omega
  · rintro ⟨k, v⟩
    constructor
    · intro he; exact Memory.mem_of_read ((h k).symm.trans (Memory.read_of_mem hm he))
    · intro he; exact Memory.mem_of_read ((h k).trans (Memory.read_of_mem hn he))

/-! ## Writing a list of words -/

@[simp] theorem Memory.writeAll_nil (m : Memory) : Memory.writeAll m [] = m := rfl

@[simp] theorem Memory.writeAll_cons (m : Memory) (e : Nat × Word) (es : List (Nat × Word)) :
    Memory.writeAll m (e :: es) = Memory.writeAll (Memory.write m e.1 e.2) es := rfl

/-- Writing a list of words keeps the canonical form. -/
theorem Memory.wf_writeAll {m : Memory} (h : Memory.wf m) (es : List (Nat × Word)) : Memory.wf (Memory.writeAll m es) := by
  induction es generalizing m with
  | nil => exact h
  | cons e es ih => exact ih (Memory.wf_write h _ _)

/-- What writing a list of words lists: one of them, or an entry of the old memory. -/
theorem Memory.mem_writeAll {m : Memory} {es : List (Nat × Word)} {e : Nat × Word} (h : e ∈ Memory.writeAll m es) :
    e ∈ es ∨ e ∈ m := by
  induction es generalizing m with
  | nil => exact .inr h
  | cons d es ih =>
    rcases ih h with h | h
    · exact .inl (by simp [h])
    · rcases Memory.mem_write h with rfl | h
      · exact .inl (by simp)
      · exact .inr h

/-- Writing words of rising indices: each of them reads back, and every other index reads as before. -/
theorem Memory.read_writeAll (m : Memory) {es : List (Nat × Word)} (h : Memory.wf es) (k : Nat) :
    Memory.read (Memory.writeAll m es) k = (Memory.read es k).or (Memory.read m k) := by
  induction es generalizing m with
  | nil => simp
  | cons d es ih =>
    obtain ⟨j, u⟩ := d
    have hp := List.pairwise_cons.1 h
    simp only [Memory.writeAll_cons, ih _ hp.2, Memory.read_write, Memory.read_cons]
    by_cases hk : k = j
    · subst hk
      have : Memory.read es k = none := Memory.read_eq_none fun e he => by have := hp.1 e he; simp only at this; omega
      simp [this]
    · simp [hk]

/-! ## The table's entries -/

/-- `stored(s, o)` of R133 fits its word by saturation. -/
theorem storedValue_toNat (p : Params) (ref : Word) (semitone o : Nat) :
    (storedValue p ref semitone o).toNat = min (entryValue p ref semitone o) (2 ^ 32 - 1) := by
  rw [storedValue, BitVec.toNat_ofNat, Nat.mod_eq_of_lt (by omega)]

/-- An entry that neither rounds to 0 nor saturates holds R133's value. -/
theorem tableWord_of_inContract {p : Params} {ref : Word} {semitone o : Nat} (h : EntryInContract p ref semitone o) :
    tableWord p ref semitone o = storedValue p ref semitone o := if_pos h

/-- Such an entry's word is `V` itself. -/
theorem tableWord_toNat {p : Params} {ref : Word} {semitone o : Nat} (h : EntryInContract p ref semitone o) :
    (tableWord p ref semitone o).toNat = entryValue p ref semitone o := by
  rw [tableWord_of_inContract h, storedValue_toNat]; omega

/-- Every other entry holds a free value. -/
theorem tableWord_of_absurd {p : Params} {ref : Word} {semitone o : Nat} (h : ¬ EntryInContract p ref semitone o) :
    tableWord p ref semitone o = Config.absurdWord p ref semitone o := if_neg h

/-- The entries `FTBUILD` writes, one by one. -/
theorem mem_tableEntries {p : Params} {ref : Word} {e : Nat × Word} :
    e ∈ tableEntries p ref ↔ ∃ o < p.nOct, ∃ semitone < 12, e = (12 * o + semitone, tableWord p ref semitone o) := by
  simp [tableEntries, tableIndex, eq_comm]

/-- `FTBUILD`'s loops write rising indices. -/
theorem tableEntries_wf (p : Params) (ref : Word) : Memory.wf (tableEntries p ref) := by
  refine List.pairwise_flatMap.2 ⟨fun o _ => ?_, ?_⟩
  · refine List.pairwise_map.2 (List.pairwise_lt_range.imp fun {a b} h => ?_)
    simp only [tableIndex]; omega
  · refine List.pairwise_lt_range.imp fun {o o'} h => ?_
    intro x hx y hy
    simp only [List.mem_map, List.mem_range] at hx hy
    obtain ⟨a, ha, rfl⟩ := hx
    obtain ⟨b, hb, rfl⟩ := hy
    simp only [tableIndex]; omega

/-- What the entries hold at a semitone and an octave of the table. -/
theorem read_tableEntries (p : Params) (ref : Word) {o semitone : Nat} (ho : o < p.nOct) (hs : semitone < 12) :
    Memory.read (tableEntries p ref) (12 * o + semitone) = some (tableWord p ref semitone o) :=
  Memory.read_of_mem (tableEntries_wf p ref) (mem_tableEntries.2 ⟨o, ho, semitone, hs, rfl⟩)

/-- Every index of the entries is one of the table's. -/
theorem tableEntries_index_lt {p : Params} {ref : Word} {e : Nat × Word} (h : e ∈ tableEntries p ref) :
    e.1 < tableSize p := by
  obtain ⟨o, ho, semitone, hs, rfl⟩ := mem_tableEntries.1 h
  simp only [tableSize]; omega

/-- Beyond the table the entries hold nothing. -/
theorem read_tableEntries_none (p : Params) (ref : Word) {k : Nat} (h : tableSize p ≤ k) :
    Memory.read (tableEntries p ref) k = none :=
  Memory.read_eq_none fun e he => by have := tableEntries_index_lt he; omega

end Sys2Proof.Machine
end

