-- ==== Sys2Proof/Laws/State.lean ====
section
/-! SUPPORT. One lemma per field of `State` per update, so that no proof unfolds a record update; and the accessors
`readX`, `flag`, `slot`, `readCsr` after each update that does not touch what they read. -/
namespace Sys2Proof.Machine

variable (s : State)

@[simp] theorem State.writeX_cfg (r : Reg) (v : Word) : (s.writeX r v).cfg = s.cfg := rfl
@[simp] theorem State.writeX_x (r : Reg) (v : Word) : (s.writeX r v).x = s.x.set r v := rfl
@[simp] theorem State.writeX_tv (r : Reg) (v : Word) : (s.writeX r v).tv = s.tv := rfl
@[simp] theorem State.writeX_qi (r : Reg) (v : Word) : (s.writeX r v).qi = s.qi := rfl
@[simp] theorem State.writeX_en (r : Reg) (v : Word) : (s.writeX r v).en = s.en := rfl
@[simp] theorem State.writeX_sil (r : Reg) (v : Word) : (s.writeX r v).sil = s.sil := rfl
@[simp] theorem State.writeX_ill (r : Reg) (v : Word) : (s.writeX r v).ill = s.ill := rfl
@[simp] theorem State.writeX_refPitch (r : Reg) (v : Word) : (s.writeX r v).refPitch = s.refPitch := rfl
@[simp] theorem State.writeX_period (r : Reg) (v : Word) : (s.writeX r v).period = s.period := rfl
@[simp] theorem State.writeX_duty (r : Reg) (v : Word) : (s.writeX r v).duty = s.duty := rfl
@[simp] theorem State.writeX_tc (r : Reg) (v : Word) : (s.writeX r v).tc = s.tc := rfl
@[simp] theorem State.writeX_dir (r : Reg) (v : Word) : (s.writeX r v).dir = s.dir := rfl
@[simp] theorem State.writeX_qs (r : Reg) (v : Word) : (s.writeX r v).qs = s.qs := rfl
@[simp] theorem State.writeX_pinA (r : Reg) (v : Word) : (s.writeX r v).pinA = s.pinA := rfl
@[simp] theorem State.writeX_pinB (r : Reg) (v : Word) : (s.writeX r v).pinB = s.pinB := rfl
@[simp] theorem State.writeX_cbCw (r : Reg) (v : Word) : (s.writeX r v).cbCw = s.cbCw := rfl
@[simp] theorem State.writeX_cbCcw (r : Reg) (v : Word) : (s.writeX r v).cbCcw = s.cbCcw := rfl
@[simp] theorem State.writeX_ft (r : Reg) (v : Word) : (s.writeX r v).ft = s.ft := rfl
@[simp] theorem State.writeX_din (r : Reg) (v : Word) : (s.writeX r v).din = s.din := rfl
@[simp] theorem State.writeX_inputs (r : Reg) (v : Word) : (s.writeX r v).inputs = s.inputs := rfl
@[simp] theorem State.writeX_rsp (r : Reg) (v : Word) : (s.writeX r v).rsp = s.rsp := rfl
@[simp] theorem State.writeX_events (r : Reg) (v : Word) : (s.writeX r v).events = s.events := rfl
@[simp] theorem State.writeX_free (r : Reg) (v : Word) : (s.writeX r v).free = s.free := rfl
@[simp] theorem State.flag_writeX (r : Reg) (v : Word) (f : Flag) : (s.writeX r v).flag f = s.flag f := by
  cases f <;> simp [State.flag]
@[simp] theorem State.slot_writeX (r : Reg) (v : Word) (d' : Dir) : (s.writeX r v).slot d' = s.slot d' := by
  cases d' <;> simp [State.slot]
@[simp] theorem State.readCsr_writeX (r : Reg) (v : Word) (c : Csr) : (s.writeX r v).readCsr c = s.readCsr c := by
  cases c <;> simp [State.readCsr, State.statusWord]

@[simp] theorem State.respond_cfg (w : Word) (es : List Event) : (s.respond w es).cfg = s.cfg := rfl
@[simp] theorem State.respond_x (w : Word) (es : List Event) : (s.respond w es).x = s.x := rfl
@[simp] theorem State.respond_tv (w : Word) (es : List Event) : (s.respond w es).tv = s.tv := rfl
@[simp] theorem State.respond_qi (w : Word) (es : List Event) : (s.respond w es).qi = s.qi := rfl
@[simp] theorem State.respond_en (w : Word) (es : List Event) : (s.respond w es).en = s.en := rfl
@[simp] theorem State.respond_sil (w : Word) (es : List Event) : (s.respond w es).sil = s.sil := rfl
@[simp] theorem State.respond_ill (w : Word) (es : List Event) : (s.respond w es).ill = s.ill := rfl
@[simp] theorem State.respond_refPitch (w : Word) (es : List Event) : (s.respond w es).refPitch = s.refPitch := rfl
@[simp] theorem State.respond_period (w : Word) (es : List Event) : (s.respond w es).period = s.period := rfl
@[simp] theorem State.respond_duty (w : Word) (es : List Event) : (s.respond w es).duty = s.duty := rfl
@[simp] theorem State.respond_tc (w : Word) (es : List Event) : (s.respond w es).tc = s.tc := rfl
@[simp] theorem State.respond_dir (w : Word) (es : List Event) : (s.respond w es).dir = s.dir := rfl
@[simp] theorem State.respond_qs (w : Word) (es : List Event) : (s.respond w es).qs = s.qs := rfl
@[simp] theorem State.respond_pinA (w : Word) (es : List Event) : (s.respond w es).pinA = s.pinA := rfl
@[simp] theorem State.respond_pinB (w : Word) (es : List Event) : (s.respond w es).pinB = s.pinB := rfl
@[simp] theorem State.respond_cbCw (w : Word) (es : List Event) : (s.respond w es).cbCw = s.cbCw := rfl
@[simp] theorem State.respond_cbCcw (w : Word) (es : List Event) : (s.respond w es).cbCcw = s.cbCcw := rfl
@[simp] theorem State.respond_ft (w : Word) (es : List Event) : (s.respond w es).ft = s.ft := rfl
@[simp] theorem State.respond_din (w : Word) (es : List Event) : (s.respond w es).din = s.din := rfl
@[simp] theorem State.respond_inputs (w : Word) (es : List Event) : (s.respond w es).inputs = s.inputs := rfl
@[simp] theorem State.respond_rsp (w : Word) (es : List Event) : (s.respond w es).rsp = some w := rfl
@[simp] theorem State.respond_events (w : Word) (es : List Event) : (s.respond w es).events = es := rfl
@[simp] theorem State.respond_free (w : Word) (es : List Event) : (s.respond w es).free = s.free := rfl
@[simp] theorem State.readX_respond (w : Word) (es : List Event) (r' : Reg) : (s.respond w es).readX r' = s.readX r' := by
  cases r' <;> simp [State.readX]
@[simp] theorem State.flag_respond (w : Word) (es : List Event) (f : Flag) : (s.respond w es).flag f = s.flag f := by
  cases f <;> simp [State.flag]
@[simp] theorem State.slot_respond (w : Word) (es : List Event) (d' : Dir) : (s.respond w es).slot d' = s.slot d' := by
  cases d' <;> simp [State.slot]
@[simp] theorem State.readCsr_respond (w : Word) (es : List Event) (c : Csr) : (s.respond w es).readCsr c = s.readCsr c := by
  cases c <;> simp [State.readCsr, State.statusWord]

@[simp] theorem State.quiet_cfg : s.quiet.cfg = s.cfg := rfl
@[simp] theorem State.quiet_x : s.quiet.x = s.x := rfl
@[simp] theorem State.quiet_tv : s.quiet.tv = s.tv := rfl
@[simp] theorem State.quiet_qi : s.quiet.qi = s.qi := rfl
@[simp] theorem State.quiet_en : s.quiet.en = s.en := rfl
@[simp] theorem State.quiet_sil : s.quiet.sil = s.sil := rfl
@[simp] theorem State.quiet_ill : s.quiet.ill = s.ill := rfl
@[simp] theorem State.quiet_refPitch : s.quiet.refPitch = s.refPitch := rfl
@[simp] theorem State.quiet_period : s.quiet.period = s.period := rfl
@[simp] theorem State.quiet_duty : s.quiet.duty = s.duty := rfl
@[simp] theorem State.quiet_tc : s.quiet.tc = s.tc := rfl
@[simp] theorem State.quiet_dir : s.quiet.dir = s.dir := rfl
@[simp] theorem State.quiet_qs : s.quiet.qs = s.qs := rfl
@[simp] theorem State.quiet_pinA : s.quiet.pinA = s.pinA := rfl
@[simp] theorem State.quiet_pinB : s.quiet.pinB = s.pinB := rfl
@[simp] theorem State.quiet_cbCw : s.quiet.cbCw = s.cbCw := rfl
@[simp] theorem State.quiet_cbCcw : s.quiet.cbCcw = s.cbCcw := rfl
@[simp] theorem State.quiet_ft : s.quiet.ft = s.ft := rfl
@[simp] theorem State.quiet_din : s.quiet.din = s.din := rfl
@[simp] theorem State.quiet_inputs : s.quiet.inputs = s.inputs := rfl
@[simp] theorem State.quiet_rsp : s.quiet.rsp = none := rfl
@[simp] theorem State.quiet_events : s.quiet.events = [] := rfl
@[simp] theorem State.quiet_free : s.quiet.free = s.free := rfl
@[simp] theorem State.readX_quiet (r' : Reg) : s.quiet.readX r' = s.readX r' := by
  cases r' <;> simp [State.readX]
@[simp] theorem State.flag_quiet (f : Flag) : s.quiet.flag f = s.flag f := by
  cases f <;> simp [State.flag]
@[simp] theorem State.slot_quiet (d' : Dir) : s.quiet.slot d' = s.slot d' := by
  cases d' <;> simp [State.slot]
@[simp] theorem State.readCsr_quiet (c : Csr) : s.quiet.readCsr c = s.readCsr c := by
  cases c <;> simp [State.readCsr, State.statusWord]

@[simp] theorem State.markIllegal_cfg : s.markIllegal.cfg = s.cfg := rfl
@[simp] theorem State.markIllegal_x : s.markIllegal.x = s.x := rfl
@[simp] theorem State.markIllegal_tv : s.markIllegal.tv = s.tv := rfl
@[simp] theorem State.markIllegal_qi : s.markIllegal.qi = s.qi := rfl
@[simp] theorem State.markIllegal_en : s.markIllegal.en = s.en := rfl
@[simp] theorem State.markIllegal_sil : s.markIllegal.sil = s.sil := rfl
@[simp] theorem State.markIllegal_ill : s.markIllegal.ill = true := rfl
@[simp] theorem State.markIllegal_refPitch : s.markIllegal.refPitch = s.refPitch := rfl
@[simp] theorem State.markIllegal_period : s.markIllegal.period = s.period := rfl
@[simp] theorem State.markIllegal_duty : s.markIllegal.duty = s.duty := rfl
@[simp] theorem State.markIllegal_tc : s.markIllegal.tc = s.tc := rfl
@[simp] theorem State.markIllegal_dir : s.markIllegal.dir = s.dir := rfl
@[simp] theorem State.markIllegal_qs : s.markIllegal.qs = s.qs := rfl
@[simp] theorem State.markIllegal_pinA : s.markIllegal.pinA = s.pinA := rfl
@[simp] theorem State.markIllegal_pinB : s.markIllegal.pinB = s.pinB := rfl
@[simp] theorem State.markIllegal_cbCw : s.markIllegal.cbCw = s.cbCw := rfl
@[simp] theorem State.markIllegal_cbCcw : s.markIllegal.cbCcw = s.cbCcw := rfl
@[simp] theorem State.markIllegal_ft : s.markIllegal.ft = s.ft := rfl
@[simp] theorem State.markIllegal_din : s.markIllegal.din = s.din := rfl
@[simp] theorem State.markIllegal_inputs : s.markIllegal.inputs = s.inputs := rfl
@[simp] theorem State.markIllegal_rsp : s.markIllegal.rsp = s.rsp := rfl
@[simp] theorem State.markIllegal_events : s.markIllegal.events = s.events := rfl
@[simp] theorem State.markIllegal_free : s.markIllegal.free = s.free := rfl
@[simp] theorem State.readX_markIllegal (r' : Reg) : s.markIllegal.readX r' = s.readX r' := by
  cases r' <;> simp [State.readX]
@[simp] theorem State.slot_markIllegal (d' : Dir) : s.markIllegal.slot d' = s.slot d' := by
  cases d' <;> simp [State.slot]

@[simp] theorem State.illegalCommand_cfg : s.illegalCommand.cfg = s.cfg := rfl
@[simp] theorem State.illegalCommand_x : s.illegalCommand.x = s.x := rfl
@[simp] theorem State.illegalCommand_tv : s.illegalCommand.tv = s.tv := rfl
@[simp] theorem State.illegalCommand_qi : s.illegalCommand.qi = s.qi := rfl
@[simp] theorem State.illegalCommand_en : s.illegalCommand.en = s.en := rfl
@[simp] theorem State.illegalCommand_sil : s.illegalCommand.sil = s.sil := rfl
@[simp] theorem State.illegalCommand_ill : s.illegalCommand.ill = true := rfl
@[simp] theorem State.illegalCommand_refPitch : s.illegalCommand.refPitch = s.refPitch := rfl
@[simp] theorem State.illegalCommand_period : s.illegalCommand.period = s.period := rfl
@[simp] theorem State.illegalCommand_duty : s.illegalCommand.duty = s.duty := rfl
@[simp] theorem State.illegalCommand_tc : s.illegalCommand.tc = s.tc := rfl
@[simp] theorem State.illegalCommand_dir : s.illegalCommand.dir = s.dir := rfl
@[simp] theorem State.illegalCommand_qs : s.illegalCommand.qs = s.qs := rfl
@[simp] theorem State.illegalCommand_pinA : s.illegalCommand.pinA = s.pinA := rfl
@[simp] theorem State.illegalCommand_pinB : s.illegalCommand.pinB = s.pinB := rfl
@[simp] theorem State.illegalCommand_cbCw : s.illegalCommand.cbCw = s.cbCw := rfl
@[simp] theorem State.illegalCommand_cbCcw : s.illegalCommand.cbCcw = s.cbCcw := rfl
@[simp] theorem State.illegalCommand_ft : s.illegalCommand.ft = s.ft := rfl
@[simp] theorem State.illegalCommand_din : s.illegalCommand.din = s.din := rfl
@[simp] theorem State.illegalCommand_inputs : s.illegalCommand.inputs = s.inputs := rfl
@[simp] theorem State.illegalCommand_rsp : s.illegalCommand.rsp = some 0 := rfl
@[simp] theorem State.illegalCommand_events : s.illegalCommand.events = [] := rfl
@[simp] theorem State.illegalCommand_free : s.illegalCommand.free = s.free := rfl
@[simp] theorem State.readX_illegalCommand (r' : Reg) : s.illegalCommand.readX r' = s.readX r' := by
  cases r' <;> simp [State.readX]
@[simp] theorem State.slot_illegalCommand (d' : Dir) : s.illegalCommand.slot d' = s.slot d' := by
  cases d' <;> simp [State.slot]

@[simp] theorem State.setPins_cfg (levels : Word) : (s.setPins levels).cfg = s.cfg := rfl
@[simp] theorem State.setPins_x (levels : Word) : (s.setPins levels).x = s.x := rfl
@[simp] theorem State.setPins_tv (levels : Word) : (s.setPins levels).tv = s.tv := rfl
@[simp] theorem State.setPins_qi (levels : Word) : (s.setPins levels).qi = s.qi := rfl
@[simp] theorem State.setPins_en (levels : Word) : (s.setPins levels).en = s.en := rfl
@[simp] theorem State.setPins_sil (levels : Word) : (s.setPins levels).sil = s.sil := rfl
@[simp] theorem State.setPins_ill (levels : Word) : (s.setPins levels).ill = s.ill := rfl
@[simp] theorem State.setPins_refPitch (levels : Word) : (s.setPins levels).refPitch = s.refPitch := rfl
@[simp] theorem State.setPins_period (levels : Word) : (s.setPins levels).period = s.period := rfl
@[simp] theorem State.setPins_duty (levels : Word) : (s.setPins levels).duty = s.duty := rfl
@[simp] theorem State.setPins_tc (levels : Word) : (s.setPins levels).tc = s.tc := rfl
@[simp] theorem State.setPins_dir (levels : Word) : (s.setPins levels).dir = s.dir := rfl
@[simp] theorem State.setPins_qs (levels : Word) : (s.setPins levels).qs = s.qs := rfl
@[simp] theorem State.setPins_pinA (levels : Word) : (s.setPins levels).pinA = s.pinA := rfl
@[simp] theorem State.setPins_pinB (levels : Word) : (s.setPins levels).pinB = s.pinB := rfl
@[simp] theorem State.setPins_cbCw (levels : Word) : (s.setPins levels).cbCw = s.cbCw := rfl
@[simp] theorem State.setPins_cbCcw (levels : Word) : (s.setPins levels).cbCcw = s.cbCcw := rfl
@[simp] theorem State.setPins_ft (levels : Word) : (s.setPins levels).ft = s.ft := rfl
@[simp] theorem State.setPins_din (levels : Word) : (s.setPins levels).din = levels := rfl
@[simp] theorem State.setPins_inputs (levels : Word) : (s.setPins levels).inputs = s.inputs := rfl
@[simp] theorem State.setPins_rsp (levels : Word) : (s.setPins levels).rsp = none := rfl
@[simp] theorem State.setPins_events (levels : Word) : (s.setPins levels).events = [] := rfl
@[simp] theorem State.setPins_free (levels : Word) : (s.setPins levels).free = s.free := rfl
@[simp] theorem State.readX_setPins (levels : Word) (r' : Reg) : (s.setPins levels).readX r' = s.readX r' := by
  cases r' <;> simp [State.readX]
@[simp] theorem State.flag_setPins (levels : Word) (f : Flag) : (s.setPins levels).flag f = s.flag f := by
  cases f <;> simp [State.flag]
@[simp] theorem State.slot_setPins (levels : Word) (d' : Dir) : (s.setPins levels).slot d' = s.slot d' := by
  cases d' <;> simp [State.slot]
@[simp] theorem State.readCsr_setPins (levels : Word) (c : Csr) : (s.setPins levels).readCsr c = s.readCsr c := by
  cases c <;> simp [State.readCsr, State.statusWord]

@[simp] theorem State.buildTable_cfg (ref : Word) : (s.buildTable ref).cfg = s.cfg := rfl
@[simp] theorem State.buildTable_x (ref : Word) : (s.buildTable ref).x = s.x := rfl
@[simp] theorem State.buildTable_tv (ref : Word) : (s.buildTable ref).tv = true := rfl
@[simp] theorem State.buildTable_qi (ref : Word) : (s.buildTable ref).qi = s.qi := rfl
@[simp] theorem State.buildTable_en (ref : Word) : (s.buildTable ref).en = s.en := rfl
@[simp] theorem State.buildTable_sil (ref : Word) : (s.buildTable ref).sil = s.sil := rfl
@[simp] theorem State.buildTable_ill (ref : Word) : (s.buildTable ref).ill = s.ill := rfl
@[simp] theorem State.buildTable_refPitch (ref : Word) : (s.buildTable ref).refPitch = ref := rfl
@[simp] theorem State.buildTable_period (ref : Word) : (s.buildTable ref).period = s.period := rfl
@[simp] theorem State.buildTable_duty (ref : Word) : (s.buildTable ref).duty = s.duty := rfl
@[simp] theorem State.buildTable_tc (ref : Word) : (s.buildTable ref).tc = s.tc := rfl
@[simp] theorem State.buildTable_dir (ref : Word) : (s.buildTable ref).dir = s.dir := rfl
@[simp] theorem State.buildTable_qs (ref : Word) : (s.buildTable ref).qs = s.qs := rfl
@[simp] theorem State.buildTable_pinA (ref : Word) : (s.buildTable ref).pinA = s.pinA := rfl
@[simp] theorem State.buildTable_pinB (ref : Word) : (s.buildTable ref).pinB = s.pinB := rfl
@[simp] theorem State.buildTable_cbCw (ref : Word) : (s.buildTable ref).cbCw = s.cbCw := rfl
@[simp] theorem State.buildTable_cbCcw (ref : Word) : (s.buildTable ref).cbCcw = s.cbCcw := rfl
@[simp] theorem State.buildTable_ft (ref : Word) : (s.buildTable ref).ft = Memory.writeAll s.ft (tableEntries s.cfg ref) := rfl
@[simp] theorem State.buildTable_din (ref : Word) : (s.buildTable ref).din = s.din := rfl
@[simp] theorem State.buildTable_inputs (ref : Word) : (s.buildTable ref).inputs = s.inputs := rfl
@[simp] theorem State.buildTable_rsp (ref : Word) : (s.buildTable ref).rsp = s.rsp := rfl
@[simp] theorem State.buildTable_events (ref : Word) : (s.buildTable ref).events = s.events := rfl
@[simp] theorem State.buildTable_free (ref : Word) : (s.buildTable ref).free = s.free := rfl
@[simp] theorem State.readX_buildTable (ref : Word) (r' : Reg) : (s.buildTable ref).readX r' = s.readX r' := by
  cases r' <;> simp [State.readX]
@[simp] theorem State.slot_buildTable (ref : Word) (d' : Dir) : (s.buildTable ref).slot d' = s.slot d' := by
  cases d' <;> simp [State.slot]

@[simp] theorem State.loadPeriod_cfg (p : Word) : (s.loadPeriod p).cfg = s.cfg := rfl
@[simp] theorem State.loadPeriod_x (p : Word) : (s.loadPeriod p).x = s.x := rfl
@[simp] theorem State.loadPeriod_tv (p : Word) : (s.loadPeriod p).tv = s.tv := rfl
@[simp] theorem State.loadPeriod_qi (p : Word) : (s.loadPeriod p).qi = s.qi := rfl
@[simp] theorem State.loadPeriod_en (p : Word) : (s.loadPeriod p).en = s.en := rfl
@[simp] theorem State.loadPeriod_sil (p : Word) : (s.loadPeriod p).sil = false := rfl
@[simp] theorem State.loadPeriod_ill (p : Word) : (s.loadPeriod p).ill = s.ill := rfl
@[simp] theorem State.loadPeriod_refPitch (p : Word) : (s.loadPeriod p).refPitch = s.refPitch := rfl
@[simp] theorem State.loadPeriod_period (p : Word) : (s.loadPeriod p).period = p := rfl
@[simp] theorem State.loadPeriod_duty (p : Word) : (s.loadPeriod p).duty = dutyOf p := rfl
@[simp] theorem State.loadPeriod_tc (p : Word) : (s.loadPeriod p).tc = s.tc := rfl
@[simp] theorem State.loadPeriod_dir (p : Word) : (s.loadPeriod p).dir = s.dir := rfl
@[simp] theorem State.loadPeriod_qs (p : Word) : (s.loadPeriod p).qs = s.qs := rfl
@[simp] theorem State.loadPeriod_pinA (p : Word) : (s.loadPeriod p).pinA = s.pinA := rfl
@[simp] theorem State.loadPeriod_pinB (p : Word) : (s.loadPeriod p).pinB = s.pinB := rfl
@[simp] theorem State.loadPeriod_cbCw (p : Word) : (s.loadPeriod p).cbCw = s.cbCw := rfl
@[simp] theorem State.loadPeriod_cbCcw (p : Word) : (s.loadPeriod p).cbCcw = s.cbCcw := rfl
@[simp] theorem State.loadPeriod_ft (p : Word) : (s.loadPeriod p).ft = s.ft := rfl
@[simp] theorem State.loadPeriod_din (p : Word) : (s.loadPeriod p).din = s.din := rfl
@[simp] theorem State.loadPeriod_inputs (p : Word) : (s.loadPeriod p).inputs = s.inputs := rfl
@[simp] theorem State.loadPeriod_rsp (p : Word) : (s.loadPeriod p).rsp = s.rsp := rfl
@[simp] theorem State.loadPeriod_events (p : Word) : (s.loadPeriod p).events = s.events := rfl
@[simp] theorem State.loadPeriod_free (p : Word) : (s.loadPeriod p).free = s.free := rfl
@[simp] theorem State.readX_loadPeriod (p : Word) (r' : Reg) : (s.loadPeriod p).readX r' = s.readX r' := by
  cases r' <;> simp [State.readX]
@[simp] theorem State.slot_loadPeriod (p : Word) (d' : Dir) : (s.loadPeriod p).slot d' = s.slot d' := by
  cases d' <;> simp [State.slot]

@[simp] theorem State.silence_cfg : s.silence.cfg = s.cfg := rfl
@[simp] theorem State.silence_x : s.silence.x = s.x := rfl
@[simp] theorem State.silence_tv : s.silence.tv = s.tv := rfl
@[simp] theorem State.silence_qi : s.silence.qi = s.qi := rfl
@[simp] theorem State.silence_en : s.silence.en = s.en := rfl
@[simp] theorem State.silence_sil : s.silence.sil = true := rfl
@[simp] theorem State.silence_ill : s.silence.ill = s.ill := rfl
@[simp] theorem State.silence_refPitch : s.silence.refPitch = s.refPitch := rfl
@[simp] theorem State.silence_period : s.silence.period = s.period := rfl
@[simp] theorem State.silence_duty : s.silence.duty = s.duty := rfl
@[simp] theorem State.silence_tc : s.silence.tc = s.tc := rfl
@[simp] theorem State.silence_dir : s.silence.dir = s.dir := rfl
@[simp] theorem State.silence_qs : s.silence.qs = s.qs := rfl
@[simp] theorem State.silence_pinA : s.silence.pinA = s.pinA := rfl
@[simp] theorem State.silence_pinB : s.silence.pinB = s.pinB := rfl
@[simp] theorem State.silence_cbCw : s.silence.cbCw = s.cbCw := rfl
@[simp] theorem State.silence_cbCcw : s.silence.cbCcw = s.cbCcw := rfl
@[simp] theorem State.silence_ft : s.silence.ft = s.ft := rfl
@[simp] theorem State.silence_din : s.silence.din = s.din := rfl
@[simp] theorem State.silence_inputs : s.silence.inputs = s.inputs := rfl
@[simp] theorem State.silence_rsp : s.silence.rsp = s.rsp := rfl
@[simp] theorem State.silence_events : s.silence.events = s.events := rfl
@[simp] theorem State.silence_free : s.silence.free = s.free := rfl
@[simp] theorem State.readX_silence (r' : Reg) : s.silence.readX r' = s.readX r' := by
  cases r' <;> simp [State.readX]
@[simp] theorem State.slot_silence (d' : Dir) : s.silence.slot d' = s.slot d' := by
  cases d' <;> simp [State.slot]

@[simp] theorem State.initDecoder_cfg (a b : BitVec 5) : (s.initDecoder a b).cfg = s.cfg := rfl
@[simp] theorem State.initDecoder_x (a b : BitVec 5) : (s.initDecoder a b).x = s.x := rfl
@[simp] theorem State.initDecoder_tv (a b : BitVec 5) : (s.initDecoder a b).tv = s.tv := rfl
@[simp] theorem State.initDecoder_qi (a b : BitVec 5) : (s.initDecoder a b).qi = true := rfl
@[simp] theorem State.initDecoder_en (a b : BitVec 5) : (s.initDecoder a b).en = true := rfl
@[simp] theorem State.initDecoder_sil (a b : BitVec 5) : (s.initDecoder a b).sil = s.sil := rfl
@[simp] theorem State.initDecoder_ill (a b : BitVec 5) : (s.initDecoder a b).ill = s.ill := rfl
@[simp] theorem State.initDecoder_refPitch (a b : BitVec 5) : (s.initDecoder a b).refPitch = s.refPitch := rfl
@[simp] theorem State.initDecoder_period (a b : BitVec 5) : (s.initDecoder a b).period = s.period := rfl
@[simp] theorem State.initDecoder_duty (a b : BitVec 5) : (s.initDecoder a b).duty = s.duty := rfl
@[simp] theorem State.initDecoder_tc (a b : BitVec 5) : (s.initDecoder a b).tc = 0 := rfl
@[simp] theorem State.initDecoder_dir (a b : BitVec 5) : (s.initDecoder a b).dir = s.cfg.dirReset := rfl
@[simp] theorem State.initDecoder_qs (a b : BitVec 5) : (s.initDecoder a b).qs = .start := rfl
@[simp] theorem State.initDecoder_pinA (a b : BitVec 5) : (s.initDecoder a b).pinA = a := rfl
@[simp] theorem State.initDecoder_pinB (a b : BitVec 5) : (s.initDecoder a b).pinB = b := rfl
@[simp] theorem State.initDecoder_cbCw (a b : BitVec 5) : (s.initDecoder a b).cbCw = s.cbCw := rfl
@[simp] theorem State.initDecoder_cbCcw (a b : BitVec 5) : (s.initDecoder a b).cbCcw = s.cbCcw := rfl
@[simp] theorem State.initDecoder_ft (a b : BitVec 5) : (s.initDecoder a b).ft = s.ft := rfl
@[simp] theorem State.initDecoder_din (a b : BitVec 5) : (s.initDecoder a b).din = s.din := rfl
@[simp] theorem State.initDecoder_inputs (a b : BitVec 5) : (s.initDecoder a b).inputs = s.inputs := rfl
@[simp] theorem State.initDecoder_rsp (a b : BitVec 5) : (s.initDecoder a b).rsp = s.rsp := rfl
@[simp] theorem State.initDecoder_events (a b : BitVec 5) : (s.initDecoder a b).events = s.events := rfl
@[simp] theorem State.initDecoder_free (a b : BitVec 5) : (s.initDecoder a b).free = s.free := rfl
@[simp] theorem State.readX_initDecoder (a b : BitVec 5) (r' : Reg) : (s.initDecoder a b).readX r' = s.readX r' := by
  cases r' <;> simp [State.readX]
@[simp] theorem State.slot_initDecoder (a b : BitVec 5) (d' : Dir) : (s.initDecoder a b).slot d' = s.slot d' := by
  cases d' <;> simp [State.slot]

@[simp] theorem State.setSlot_cfg (d : Dir) (c : Slot) : (s.setSlot d c).cfg = s.cfg := by cases d <;> rfl
@[simp] theorem State.setSlot_x (d : Dir) (c : Slot) : (s.setSlot d c).x = s.x := by cases d <;> rfl
@[simp] theorem State.setSlot_tv (d : Dir) (c : Slot) : (s.setSlot d c).tv = s.tv := by cases d <;> rfl
@[simp] theorem State.setSlot_qi (d : Dir) (c : Slot) : (s.setSlot d c).qi = s.qi := by cases d <;> rfl
@[simp] theorem State.setSlot_en (d : Dir) (c : Slot) : (s.setSlot d c).en = s.en := by cases d <;> rfl
@[simp] theorem State.setSlot_sil (d : Dir) (c : Slot) : (s.setSlot d c).sil = s.sil := by cases d <;> rfl
@[simp] theorem State.setSlot_ill (d : Dir) (c : Slot) : (s.setSlot d c).ill = s.ill := by cases d <;> rfl
@[simp] theorem State.setSlot_refPitch (d : Dir) (c : Slot) : (s.setSlot d c).refPitch = s.refPitch := by cases d <;> rfl
@[simp] theorem State.setSlot_period (d : Dir) (c : Slot) : (s.setSlot d c).period = s.period := by cases d <;> rfl
@[simp] theorem State.setSlot_duty (d : Dir) (c : Slot) : (s.setSlot d c).duty = s.duty := by cases d <;> rfl
@[simp] theorem State.setSlot_tc (d : Dir) (c : Slot) : (s.setSlot d c).tc = s.tc := by cases d <;> rfl
@[simp] theorem State.setSlot_dir (d : Dir) (c : Slot) : (s.setSlot d c).dir = s.dir := by cases d <;> rfl
@[simp] theorem State.setSlot_qs (d : Dir) (c : Slot) : (s.setSlot d c).qs = s.qs := by cases d <;> rfl
@[simp] theorem State.setSlot_pinA (d : Dir) (c : Slot) : (s.setSlot d c).pinA = s.pinA := by cases d <;> rfl
@[simp] theorem State.setSlot_pinB (d : Dir) (c : Slot) : (s.setSlot d c).pinB = s.pinB := by cases d <;> rfl
@[simp] theorem State.setSlot_ft (d : Dir) (c : Slot) : (s.setSlot d c).ft = s.ft := by cases d <;> rfl
@[simp] theorem State.setSlot_din (d : Dir) (c : Slot) : (s.setSlot d c).din = s.din := by cases d <;> rfl
@[simp] theorem State.setSlot_inputs (d : Dir) (c : Slot) : (s.setSlot d c).inputs = s.inputs := by cases d <;> rfl
@[simp] theorem State.setSlot_rsp (d : Dir) (c : Slot) : (s.setSlot d c).rsp = s.rsp := by cases d <;> rfl
@[simp] theorem State.setSlot_events (d : Dir) (c : Slot) : (s.setSlot d c).events = s.events := by cases d <;> rfl
@[simp] theorem State.setSlot_free (d : Dir) (c : Slot) : (s.setSlot d c).free = s.free := by cases d <;> rfl
@[simp] theorem State.readX_setSlot (d : Dir) (c : Slot) (r' : Reg) : (s.setSlot d c).readX r' = s.readX r' := by
  cases r' <;> simp [State.readX]
@[simp] theorem State.flag_setSlot (d : Dir) (c : Slot) (f : Flag) : (s.setSlot d c).flag f = s.flag f := by
  cases f <;> simp [State.flag]

@[simp] theorem State.enableDecoder_cfg : s.enableDecoder.cfg = s.cfg := by
  unfold State.enableDecoder; split <;> rfl
@[simp] theorem State.enableDecoder_x : s.enableDecoder.x = s.x := by
  unfold State.enableDecoder; split <;> rfl
@[simp] theorem State.enableDecoder_tv : s.enableDecoder.tv = s.tv := by
  unfold State.enableDecoder; split <;> rfl
@[simp] theorem State.enableDecoder_qi : s.enableDecoder.qi = s.qi := by
  unfold State.enableDecoder; split <;> rfl
@[simp] theorem State.enableDecoder_en : s.enableDecoder.en = true := by
  unfold State.enableDecoder; split <;> simp_all
@[simp] theorem State.enableDecoder_sil : s.enableDecoder.sil = s.sil := by
  unfold State.enableDecoder; split <;> rfl
@[simp] theorem State.enableDecoder_ill : s.enableDecoder.ill = s.ill := by
  unfold State.enableDecoder; split <;> rfl
@[simp] theorem State.enableDecoder_refPitch : s.enableDecoder.refPitch = s.refPitch := by
  unfold State.enableDecoder; split <;> rfl
@[simp] theorem State.enableDecoder_period : s.enableDecoder.period = s.period := by
  unfold State.enableDecoder; split <;> rfl
@[simp] theorem State.enableDecoder_duty : s.enableDecoder.duty = s.duty := by
  unfold State.enableDecoder; split <;> rfl
@[simp] theorem State.enableDecoder_tc : s.enableDecoder.tc = s.tc := by
  unfold State.enableDecoder; split <;> rfl
@[simp] theorem State.enableDecoder_dir : s.enableDecoder.dir = s.dir := by
  unfold State.enableDecoder; split <;> rfl
@[simp] theorem State.enableDecoder_qs : s.enableDecoder.qs = if s.en then s.qs else .start := by
  unfold State.enableDecoder; split <;> simp_all
@[simp] theorem State.enableDecoder_pinA : s.enableDecoder.pinA = s.pinA := by
  unfold State.enableDecoder; split <;> rfl
@[simp] theorem State.enableDecoder_pinB : s.enableDecoder.pinB = s.pinB := by
  unfold State.enableDecoder; split <;> rfl
@[simp] theorem State.enableDecoder_cbCw : s.enableDecoder.cbCw = s.cbCw := by
  unfold State.enableDecoder; split <;> rfl
@[simp] theorem State.enableDecoder_cbCcw : s.enableDecoder.cbCcw = s.cbCcw := by
  unfold State.enableDecoder; split <;> rfl
@[simp] theorem State.enableDecoder_ft : s.enableDecoder.ft = s.ft := by
  unfold State.enableDecoder; split <;> rfl
@[simp] theorem State.enableDecoder_din : s.enableDecoder.din = s.din := by
  unfold State.enableDecoder; split <;> rfl
@[simp] theorem State.enableDecoder_inputs : s.enableDecoder.inputs = s.inputs := by
  unfold State.enableDecoder; split <;> rfl
@[simp] theorem State.enableDecoder_rsp : s.enableDecoder.rsp = s.rsp := by
  unfold State.enableDecoder; split <;> rfl
@[simp] theorem State.enableDecoder_events : s.enableDecoder.events = s.events := by
  unfold State.enableDecoder; split <;> rfl
@[simp] theorem State.enableDecoder_free : s.enableDecoder.free = s.free := by
  unfold State.enableDecoder; split <;> rfl
@[simp] theorem State.readX_enableDecoder (r' : Reg) : s.enableDecoder.readX r' = s.readX r' := by
  cases r' <;> simp [State.readX]
@[simp] theorem State.slot_enableDecoder (d' : Dir) : s.enableDecoder.slot d' = s.slot d' := by
  cases d' <;> simp [State.slot]

@[simp] theorem State.disableDecoder_cfg : s.disableDecoder.cfg = s.cfg := rfl
@[simp] theorem State.disableDecoder_x : s.disableDecoder.x = s.x := rfl
@[simp] theorem State.disableDecoder_tv : s.disableDecoder.tv = s.tv := rfl
@[simp] theorem State.disableDecoder_qi : s.disableDecoder.qi = s.qi := rfl
@[simp] theorem State.disableDecoder_en : s.disableDecoder.en = false := rfl
@[simp] theorem State.disableDecoder_sil : s.disableDecoder.sil = s.sil := rfl
@[simp] theorem State.disableDecoder_ill : s.disableDecoder.ill = s.ill := rfl
@[simp] theorem State.disableDecoder_refPitch : s.disableDecoder.refPitch = s.refPitch := rfl
@[simp] theorem State.disableDecoder_period : s.disableDecoder.period = s.period := rfl
@[simp] theorem State.disableDecoder_duty : s.disableDecoder.duty = s.duty := rfl
@[simp] theorem State.disableDecoder_tc : s.disableDecoder.tc = s.tc := rfl
@[simp] theorem State.disableDecoder_dir : s.disableDecoder.dir = s.dir := rfl
@[simp] theorem State.disableDecoder_qs : s.disableDecoder.qs = s.qs := rfl
@[simp] theorem State.disableDecoder_pinA : s.disableDecoder.pinA = s.pinA := rfl
@[simp] theorem State.disableDecoder_pinB : s.disableDecoder.pinB = s.pinB := rfl
@[simp] theorem State.disableDecoder_cbCw : s.disableDecoder.cbCw = s.cbCw := rfl
@[simp] theorem State.disableDecoder_cbCcw : s.disableDecoder.cbCcw = s.cbCcw := rfl
@[simp] theorem State.disableDecoder_ft : s.disableDecoder.ft = s.ft := rfl
@[simp] theorem State.disableDecoder_din : s.disableDecoder.din = s.din := rfl
@[simp] theorem State.disableDecoder_inputs : s.disableDecoder.inputs = s.inputs := rfl
@[simp] theorem State.disableDecoder_rsp : s.disableDecoder.rsp = s.rsp := rfl
@[simp] theorem State.disableDecoder_events : s.disableDecoder.events = s.events := rfl
@[simp] theorem State.disableDecoder_free : s.disableDecoder.free = s.free := rfl
@[simp] theorem State.readX_disableDecoder (r' : Reg) : s.disableDecoder.readX r' = s.readX r' := by
  cases r' <;> simp [State.readX]
@[simp] theorem State.slot_disableDecoder (d' : Dir) : s.disableDecoder.slot d' = s.slot d' := by
  cases d' <;> simp [State.slot]

@[simp] theorem State.presentCommand_cfg (w : Word) : (s.presentCommand w).cfg = s.cfg := rfl
@[simp] theorem State.presentCommand_x (w : Word) : (s.presentCommand w).x = s.x := rfl
@[simp] theorem State.presentCommand_tv (w : Word) : (s.presentCommand w).tv = s.tv := rfl
@[simp] theorem State.presentCommand_qi (w : Word) : (s.presentCommand w).qi = s.qi := rfl
@[simp] theorem State.presentCommand_en (w : Word) : (s.presentCommand w).en = s.en := rfl
@[simp] theorem State.presentCommand_sil (w : Word) : (s.presentCommand w).sil = s.sil := rfl
@[simp] theorem State.presentCommand_ill (w : Word) : (s.presentCommand w).ill = s.ill := rfl
@[simp] theorem State.presentCommand_refPitch (w : Word) : (s.presentCommand w).refPitch = s.refPitch := rfl
@[simp] theorem State.presentCommand_period (w : Word) : (s.presentCommand w).period = s.period := rfl
@[simp] theorem State.presentCommand_duty (w : Word) : (s.presentCommand w).duty = s.duty := rfl
@[simp] theorem State.presentCommand_tc (w : Word) : (s.presentCommand w).tc = s.tc := rfl
@[simp] theorem State.presentCommand_dir (w : Word) : (s.presentCommand w).dir = s.dir := rfl
@[simp] theorem State.presentCommand_qs (w : Word) : (s.presentCommand w).qs = s.qs := rfl
@[simp] theorem State.presentCommand_pinA (w : Word) : (s.presentCommand w).pinA = s.pinA := rfl
@[simp] theorem State.presentCommand_pinB (w : Word) : (s.presentCommand w).pinB = s.pinB := rfl
@[simp] theorem State.presentCommand_cbCw (w : Word) : (s.presentCommand w).cbCw = s.cbCw := rfl
@[simp] theorem State.presentCommand_cbCcw (w : Word) : (s.presentCommand w).cbCcw = s.cbCcw := rfl
@[simp] theorem State.presentCommand_ft (w : Word) : (s.presentCommand w).ft = s.ft := rfl
@[simp] theorem State.presentCommand_din (w : Word) : (s.presentCommand w).din = s.din := rfl
@[simp] theorem State.presentCommand_inputs (w : Word) : (s.presentCommand w).inputs = .cmd w :: s.inputs := rfl
@[simp] theorem State.presentCommand_rsp (w : Word) : (s.presentCommand w).rsp = s.rsp := rfl
@[simp] theorem State.presentCommand_events (w : Word) : (s.presentCommand w).events = s.events := rfl
@[simp] theorem State.presentCommand_free (w : Word) : (s.presentCommand w).free = s.free := rfl
@[simp] theorem State.readX_presentCommand (w : Word) (r' : Reg) : (s.presentCommand w).readX r' = s.readX r' := by
  cases r' <;> simp [State.readX]
@[simp] theorem State.flag_presentCommand (w : Word) (f : Flag) : (s.presentCommand w).flag f = s.flag f := by
  cases f <;> simp [State.flag]
@[simp] theorem State.slot_presentCommand (w : Word) (d' : Dir) : (s.presentCommand w).slot d' = s.slot d' := by
  cases d' <;> simp [State.slot]
@[simp] theorem State.readCsr_presentCommand (w : Word) (c : Csr) : (s.presentCommand w).readCsr c = s.readCsr c := by
  cases c <;> simp [State.readCsr, State.statusWord]

/-! ## Reading what was written -/

@[simp] theorem State.readX_writeX_same (r : Reg) (v : Word) : (s.writeX r v).readX r = v := by
  cases r <;> rfl
theorem State.readX_writeX_other {r r' : Reg} (h : r' ≠ r) (v : Word) : (s.writeX r v).readX r' = s.readX r' := by
  cases r <;> cases r' <;> first | rfl | exact absurd rfl h
@[simp] theorem State.slot_setSlot_same (d : Dir) (c : Slot) : (s.setSlot d c).slot d = c := by
  cases d <;> rfl
theorem State.slot_setSlot_other {d d' : Dir} (h : d' ≠ d) (c : Slot) : (s.setSlot d c).slot d' = s.slot d' := by
  cases d <;> cases d' <;> first | rfl | exact absurd rfl h

end Sys2Proof.Machine
end

