-- ==== Sys2Proof/Laws/Exec.lean ====
section
/-! SUPPORT. What each shared operation and each command can do, said once: the provers cite these instead of unfolding. -/
namespace Sys2Proof.Machine

/-! ## Operands -/

theorem csrOfNumber_csrNumber (c : Csr) : csrOfNumber (csrNumber c) = some c := by
  cases c <;> decide

theorem csrNumber_of_csrOfNumber {n : BitVec 8} {c : Csr} (h : csrOfNumber n = some c) : csrNumber c = n := by
  simpa using List.find?_some h

/-- The assigned numbers are 0x00 to 0x09 and 0x10 to 0x15 (R39). -/
theorem csrOfNumber_isSome_iff (n : BitVec 8) :
    (csrOfNumber n).isSome = true ↔ n.toNat ≤ 0x09 ∨ (0x10 ≤ n.toNat ∧ n.toNat ≤ 0x15) := by
  revert n; decide

theorem regOfBits_regBits (r : Reg) : regOfBits (regBits r) = r := by cases r <;> decide

theorem regBits_regOfBits (b : BitVec 2) : regBits (regOfBits b) = b := by revert b; decide

theorem dirOfBit_dirBit (d : Dir) : dirOfBit (dirBit d) = d := by cases d <;> decide

theorem dirBit_dirOfBit (b : BitVec 1) : dirBit (dirOfBit b) = b := by revert b; decide

theorem noteOfFields_tone {name : BitVec 4} (h : name.toNat < 12) (oct : BitVec 8) :
    noteOfFields name oct = some (.tone ⟨name.toNat, h⟩ oct.toInt) := by
  have h15 : ¬(name = 15 ∧ oct.toInt = 0) := fun e => by rw [e.1] at h; simp at h
  rw [noteOfFields, if_neg h15, dif_pos h]

theorem noteOfFields_rest : noteOfFields 15 0 = some .rest := by decide

/-- Which notes are reserved (R84). -/
theorem noteOfFields_eq_none_iff (name : BitVec 4) (oct : BitVec 8) :
    noteOfFields name oct = none ↔ 12 ≤ name.toNat ∧ (name.toNat = 15 → oct ≠ 0) := by
  have h0 : oct.toInt = 0 ↔ oct = 0 := by rw [← BitVec.toInt_inj]; simp
  have h15 : name = 15 ↔ name.toNat = 15 := by rw [← BitVec.toNat_inj]; simp
  have hlt := name.isLt
  unfold noteOfFields
  simp only [h0, h15]
  by_cases hr : name.toNat = 15 ∧ oct = 0
  · simp [hr.1, hr.2]
  · rw [if_neg hr]
    by_cases ht : name.toNat < 12
    · simp only [dif_pos ht, reduceCtorEq, false_iff]; omega
    · simp only [dif_neg ht, true_iff]
      exact ⟨by omega, fun e he => hr ⟨e, he⟩⟩

/-- The clamped octave index is one of the table's (R143). -/
theorem octaveIndex_lt {p : Params} (h : p.legal) (octave : Int) : octaveIndex p octave < p.nOct := by
  have := h.1
  simp only [octaveIndex, clampInt]; omega

/-- The octave index as the spec writes it (R142). -/
theorem tableIndex_octaveIndex {p : Params} (h : p.legal) (semitone : Nat) (octave : Int) :
    tableIndex semitone (octaveIndex p octave) =
      (12 * min (max (octave - p.firstOct) 0) ((p.nOct : Int) - 1) + (semitone : Int)).toNat := by
  have := h.1
  simp only [tableIndex, octaveIndex, clampInt]; omega

/-! ## The table read -/

/-- What a table read can answer: the word listed, or a free value; the state but for the free-value counter is the same. -/
theorem State.memRead_ok {s t : State} {k : Nat} {v : Word} (h : s.memRead k = .ok (v, t)) :
    k < tableSize s.cfg ∧
      ((Memory.read s.ft k = some v ∧ t = s) ∨
       (Memory.read s.ft k = none ∧ v = Config.freeWord s.free ∧ t = { s with free := s.free + 1 })) := by
  unfold State.memRead at h
  split at h
  · refine ⟨by assumption, ?_⟩
    split at h <;> simp_all
  · simp at h

/-- An index of the table reads. -/
theorem State.memRead_of_lt {s : State} {k : Nat} (h : k < tableSize s.cfg) : ∃ v t, s.memRead k = .ok (v, t) := by
  unfold State.memRead
  rw [if_pos h]
  split
  · exact ⟨_, _, rfl⟩
  · exact ⟨_, _, rfl⟩

/-! ## The commands -/

theorem exec_nop (s : State) : exec .nop s = .next (s.respond 0 []) := rfl

theorem exec_ldh (rd : Reg) (imm : BitVec 16) (s : State) :
    exec (.ldh rd imm) s = .next ((s.writeX rd (imm ++ 0#16)).respond 0 []) := rfl

theorem exec_ldl (rd : Reg) (imm : BitVec 16) (s : State) :
    exec (.ldl rd imm) s = .next ((s.writeX rd ((s.readX rd).extractLsb' 16 16 ++ imm)).respond 0 []) := rfl

theorem exec_rdx (rs : Reg) (s : State) : exec (.rdx rs) s = .next (s.respond (s.readX rs) []) := rfl

/-- `RDCSR` copies a control register or only sets `ILL`. -/
theorem exec_rdcsr_cases (rd : Reg) (n : BitVec 8) (s : State) :
    (∃ c, csrOfNumber n = some c ∧ exec (.rdcsr rd n) s = .next ((s.writeX rd (s.readCsr c)).respond 0 [])) ∨
    (csrOfNumber n = none ∧ exec (.rdcsr rd n) s = .next s.illegalCommand) := by
  simp only [exec, execRdcsr]
  split
  · exact .inl ⟨_, by assumption, rfl⟩
  · exact .inr ⟨by assumption, rfl⟩

theorem exec_ftbuild (rs : Reg) (s : State) :
    exec (.ftbuild rs) s = .next ((s.buildTable (s.readX rs)).respond 0 []) := rfl

/-- Everything `NRES` can do: the sentinel for `Rest`, a table word (listed or free), `ILL` for a reserved note, or a fault for
an index the table does not have. -/
theorem exec_nres_cases (rd : Reg) (name : BitVec 4) (oct : BitVec 8) (s : State) :
    (noteOfFields name oct = some .rest ∧ exec (.nres rd name oct) s = .next ((s.writeX rd 0).respond 0 [])) ∨
    (noteOfFields name oct = none ∧ exec (.nres rd name oct) s = .next s.illegalCommand) ∨
    (∃ semitone octave v s', noteOfFields name oct = some (.tone semitone octave) ∧
      s.memRead (tableIndex semitone.val (octaveIndex s.cfg octave)) = .ok (v, s') ∧
      exec (.nres rd name oct) s = .next ((s'.writeX rd v).respond 0 [])) ∨
    (∃ semitone octave e, noteOfFields name oct = some (.tone semitone octave) ∧
      s.memRead (tableIndex semitone.val (octaveIndex s.cfg octave)) = .error e ∧
      exec (.nres rd name oct) s = .fault e) := by
  simp only [exec, execNres]
  split
  · exact .inl ⟨by assumption, rfl⟩
  · rename_i semitone octave hn
    cases hr : s.memRead (tableIndex semitone.val (octaveIndex s.cfg octave)) with
    | error e => exact .inr (.inr (.inr ⟨_, _, e, hn, hr, rfl⟩))
    | ok r => exact .inr (.inr (.inl ⟨_, _, r.1, r.2, hn, hr, rfl⟩))
  · exact .inr (.inl ⟨by assumption, rfl⟩)

/-- `PCALC` silences or loads a period. -/
theorem exec_pcalc_cases (rs : Reg) (s : State) :
    (s.readX rs = 0 ∧ exec (.pcalc rs) s = .next (s.silence.respond 0 [.timerSilence])) ∨
    (s.readX rs ≠ 0 ∧ exec (.pcalc rs) s =
      .next ((s.loadPeriod (BitVec.ofNat 32 (periodOf s.cfg (s.readX rs)))).respond 0
        [.timerLoad (BitVec.ofNat 32 (periodOf s.cfg (s.readX rs)))
          (dutyOf (BitVec.ofNat 32 (periodOf s.cfg (s.readX rs))))])) := by
  by_cases h : s.readX rs = 0
  · exact .inl ⟨h, by simp only [exec, execPcalc, if_pos h]⟩
  · exact .inr ⟨h, by simp only [exec, execPcalc, if_neg h]⟩

theorem exec_qinit (a b : BitVec 5) (s : State) :
    exec (.qinit a b) s = .next ((s.initDecoder a b).respond 0 []) := rfl

theorem exec_qatt (d : Dir) (handle : BitVec 16) (s : State) :
    exec (.qatt d handle) s = .next ((s.setSlot d { valid := true, handle := handle }).respond 0 []) := rfl

theorem exec_qen (s : State) : exec .qen s = .next (s.enableDecoder.respond 0 []) := rfl

theorem exec_qdis (s : State) : exec .qdis s = .next (s.disableDecoder.respond 0 []) := rfl

/-- Everything a command that answers a next state can do: respond only, write one general register, be ill-formed and so illegal, build the
table, resolve a note whose word nothing has written, calculate or silence, or one of the decoder's commands. -/
theorem exec_cases {i : Instr} {s t : State} (h : exec i s = .next t) :
    (∃ w, t = s.respond w [] ∧ (i = .nop ∨ ∃ rs, i = .rdx rs ∧ w = s.readX rs)) ∨
    (∃ r v, t = (s.writeX r v).respond 0 [] ∧
      ((∃ imm, i = .ldh r imm) ∨ (∃ imm, i = .ldl r imm) ∨ (∃ n, i = .rdcsr r n) ∨ (∃ name oct, i = .nres r name oct))) ∨
    (t = s.illegalCommand ∧ ¬ i.wellFormed) ∨
    (∃ rs, i = .ftbuild rs ∧ t = (s.buildTable (s.readX rs)).respond 0 []) ∨
    (∃ r name oct semitone octave v, i = .nres r name oct ∧ noteOfFields name oct = some (.tone semitone octave) ∧
      tableIndex semitone.val (octaveIndex s.cfg octave) < tableSize s.cfg ∧
      Memory.read s.ft (tableIndex semitone.val (octaveIndex s.cfg octave)) = none ∧
      t = (({ s with free := s.free + 1 } : State).writeX r v).respond 0 []) ∨
    (∃ rs, i = .pcalc rs ∧ s.readX rs = 0 ∧ t = s.silence.respond 0 [.timerSilence]) ∨
    (∃ rs p, i = .pcalc rs ∧ s.readX rs ≠ 0 ∧ p = BitVec.ofNat 32 (periodOf s.cfg (s.readX rs)) ∧
      t = (s.loadPeriod p).respond 0 [.timerLoad p (dutyOf p)]) ∨
    (∃ a b, i = .qinit a b ∧ t = (s.initDecoder a b).respond 0 []) ∨
    (∃ d handle, i = .qatt d handle ∧ t = (s.setSlot d { valid := true, handle := handle }).respond 0 []) ∨
    (i = .qen ∧ t = s.enableDecoder.respond 0 []) ∨
    (i = .qdis ∧ t = s.disableDecoder.respond 0 []) := by
  cases i with
  | nop => cases h; exact .inl ⟨_, rfl, .inl rfl⟩
  | rdx rs => cases h; exact .inl ⟨_, rfl, .inr ⟨_, rfl, rfl⟩⟩
  | ldh rd imm => cases h; exact .inr (.inl ⟨_, _, rfl, .inl ⟨_, rfl⟩⟩)
  | ldl rd imm => cases h; exact .inr (.inl ⟨_, _, rfl, .inr (.inl ⟨_, rfl⟩)⟩)
  | rdcsr rd n =>
    rcases exec_rdcsr_cases rd n s with ⟨c, _, h'⟩ | ⟨hn, h'⟩ <;> (rw [h'] at h; cases h)
    · exact .inr (.inl ⟨_, _, rfl, .inr (.inr (.inl ⟨_, rfl⟩))⟩)
    · exact .inr (.inr (.inl ⟨rfl, by simp [Instr.illFormed?, hn]⟩))
  | nres rd name oct =>
    rcases exec_nres_cases rd name oct s with ⟨_, h'⟩ | ⟨hn, h'⟩ | ⟨_, _, v, _, hn, hm, h'⟩ | ⟨_, _, _, _, _, h'⟩ <;>
      (rw [h'] at h; cases h)
    · exact .inr (.inl ⟨_, _, rfl, .inr (.inr (.inr ⟨_, _, rfl⟩))⟩)
    · exact .inr (.inr (.inl ⟨rfl, by simp [Instr.illFormed?, hn]⟩))
    · rcases State.memRead_ok hm with ⟨hk, ⟨_, rfl⟩ | ⟨hr, _, rfl⟩⟩
      · exact .inr (.inl ⟨_, _, rfl, .inr (.inr (.inr ⟨_, _, rfl⟩))⟩)
      · exact .inr (.inr (.inr (.inr (.inl ⟨_, _, _, _, _, v, rfl, hn, hk, hr, rfl⟩))))
  | ftbuild rs => cases h; simp
  | pcalc rs => rcases exec_pcalc_cases rs s with ⟨_, h'⟩ | ⟨_, h'⟩ <;> (rw [h'] at h; cases h; simp_all)
  | qinit a b => cases h; simp
  | qatt d handle => cases h; simp
  | qen => cases h; simp
  | qdis => cases h; simp

/-- The period fits its register (R162). -/
theorem periodOf_toNat {p : Params} (h : p.legal) (freq : Word) :
    (BitVec.ofNat 32 (periodOf p freq)).toNat = periodOf p freq := by
  have h1 := h.2.2.2.2.2.1
  have : periodOf p freq ≤ p.perMax := Nat.min_le_right _ _
  rw [BitVec.toNat_ofNat, Nat.mod_eq_of_lt (by omega)]

theorem dutyOf_toNat (period : Word) : (dutyOf period).toNat = period.toNat / 2 := by
  simp [dutyOf, Nat.shiftRight_eq_div_pow]

/-! ## The tick -/

/-- Everything a tick can do: nothing, a move without a commit, or a commit. -/
theorem State.tickStep_cases (s : State) :
    (s.en = false ∧ s.tickStep = s.quiet) ∨
    (s.en = true ∧ ∃ q, qnext s.qs (s.samplePin s.pinA) (s.samplePin s.pinB) = (q, none) ∧
      s.tickStep = { s with qs := q, rsp := none, events := [], free := s.freeAfterSamples }) ∨
    (s.en = true ∧ ∃ q d, qnext s.qs (s.samplePin s.pinA) (s.samplePin s.pinB) = (q, some d) ∧
      s.tickStep = { s with qs := q, tc := countCommit s.tc d, dir := d, rsp := none,
                            events := s.callbackEvents d, free := s.freeAfterSamples }) := by
  cases he : s.en
  · exact .inl ⟨rfl, by simp [State.tickStep, he]⟩
  · rcases hq : qnext s.qs (s.samplePin s.pinA) (s.samplePin s.pinB) with ⟨q, _ | d⟩
    · refine .inr (.inl ⟨rfl, q, rfl, ?_⟩)
      simp [State.tickStep, State.decodeSample, he, hq, State.quiet]
    · refine .inr (.inr ⟨rfl, q, d, rfl, ?_⟩)
      simp [State.tickStep, State.decodeSample, he, hq]

/-- On pins that exist the tick of an enabled decoder decodes the two levels and uses no free value. -/
theorem State.tickStep_of_pins_exist {s : State} (he : s.en = true) (ha : s.pinExists s.pinA = true)
    (hb : s.pinExists s.pinB = true) :
    s.tickStep = s.decodeSample (s.din.getLsbD s.pinA.toNat) (s.din.getLsbD s.pinB.toNat) := by
  simp only [State.tickStep, State.samplePin, State.freeAfterSamples, he, ha, hb, if_true, Bool.and_self]
  unfold State.decodeSample
  split <;> rfl

/-- The two cells that commit (R190). -/
theorem qnext_commit {q : QState} {a b : Bool} {d : Dir} (h : (qnext q a b).2 = some d) :
    a = false ∧ b = false ∧ (qnext q a b).1 = .start ∧ ((q = .cw3 ∧ d = .cw) ∨ (q = .ccw3 ∧ d = .ccw)) := by
  revert h
  cases q <;> cases a <;> cases b <;> cases d <;> decide

/-- Two equal samples never leave `Start` (R193). -/
theorem qnext_same_sample_at_start (a : Bool) : qnext .start a a = (.start, none) := by
  cases a <;> rfl

/-! ## The step -/

/-- Everything a step can be: one case for each kind of input. -/
theorem step_cases (s : State) :
    (s.inputs = [] ∧ step s = .next s.quiet) ∨
    (∃ rest, s.inputs = .rst :: rest ∧ step s = .next { s with inputs := rest }.resetStep) ∨
    (∃ rest, s.inputs = .tick :: rest ∧ step s = .next { s with inputs := rest }.tickStep) ∨
    (∃ levels rest, s.inputs = .pins levels :: rest ∧ step s = .next ({ s with inputs := rest }.setPins levels)) ∨
    (∃ w rest e, s.inputs = .cmd w :: rest ∧ decode w = .error e ∧
      step s = .next { s with inputs := rest }.illegalCommand) ∨
    (∃ w rest i, s.inputs = .cmd w :: rest ∧ decode w = .ok i ∧ step s = exec i { s with inputs := rest }) := by
  rcases hi : s.inputs with _ | ⟨i, rest⟩
  · exact .inl ⟨rfl, by simp [step, takeInput, hi]⟩
  · rcases i with _ | w | _ | levels
    · exact .inr (.inl ⟨rest, rfl, by simp [step, takeInput, hi, inputStep]⟩)
    · rcases hd : decode w with e | i
      · exact .inr (.inr (.inr (.inr (.inl ⟨w, rest, e, rfl, hd, by simp [step, takeInput, hi, inputStep, commandStep, hd]⟩))))
      · exact .inr (.inr (.inr (.inr (.inr ⟨w, rest, i, rfl, hd, by simp [step, takeInput, hi, inputStep, commandStep, hd]⟩))))
    · exact .inr (.inr (.inl ⟨rest, rfl, by simp [step, takeInput, hi, inputStep]⟩))
    · exact .inr (.inr (.inr (.inl ⟨levels, rest, rfl, by simp [step, takeInput, hi, inputStep]⟩)))

/-! ## Runs -/

theorem run_zero (s : State) : core.run 0 s = Host.Outcome.next s := rfl

/-- A run whose first step answers goes on from there. -/
theorem run_succ {s t : State} (h : step s = Host.Outcome.next t) (n : Nat) : core.run (n + 1) s = core.run n t := by
  have h' : core.step s = Host.Outcome.next t := h
  simp only [Host.Core.run, h']

/-- A step that takes a command word off the inputs. -/
theorem step_cmd {s : State} {w : Word} {rest : List Input} {i : Instr} (h : s.inputs = .cmd w :: rest)
    (hd : decode w = .ok i) : step s = exec i { s with inputs := rest } := by
  simp only [step, takeInput, h, inputStep, commandStep, hd]

/-- A step that takes a tick off the inputs. -/
theorem step_tick {s : State} {rest : List Input} (h : s.inputs = .tick :: rest) :
    step s = .next { s with inputs := rest }.tickStep := by
  simp only [step, takeInput, h, inputStep]

/-- A step that takes a change of the pins off the inputs. -/
theorem step_pins {s : State} {levels : Word} {rest : List Input} (h : s.inputs = .pins levels :: rest) :
    step s = .next ({ s with inputs := rest }.setPins levels) := by
  simp only [step, takeInput, h, inputStep]

end Sys2Proof.Machine
end

