-- ==== Sys2Proof/Laws/Contract.lean ====
section
/-! SUPPORT. Changing only the general registers and the counter of the free values commutes with every operation that reads
neither. -/
namespace Sys2Proof.Machine

variable (s : State) (x : Regs) (f : Nat)

@[simp] theorem State.withUnknown_self : s.withUnknown s.x s.free = s := rfl

@[simp] theorem State.withUnknown_cfg : (s.withUnknown x f).cfg = s.cfg := rfl

@[simp] theorem State.withUnknown_x : (s.withUnknown x f).x = x := rfl

@[simp] theorem State.withUnknown_free : (s.withUnknown x f).free = f := rfl

@[simp] theorem State.withUnknown_inputs : (s.withUnknown x f).inputs = s.inputs := rfl

@[simp] theorem State.withUnknown_ft : (s.withUnknown x f).ft = s.ft := rfl

@[simp] theorem State.withUnknown_en : (s.withUnknown x f).en = s.en := rfl

@[simp] theorem State.readCsr_withUnknown (c : Csr) : (s.withUnknown x f).readCsr c = s.readCsr c := by cases c <;> rfl

theorem State.withUnknown_next (rest : List Input) :
    ({ s.withUnknown x f with inputs := rest } : State) = ({ s with inputs := rest } : State).withUnknown x f := rfl

theorem State.quiet_withUnknown : (s.withUnknown x f).quiet = s.quiet.withUnknown x f := rfl

theorem State.respond_withUnknown (w : Word) (es : List Event) :
    (s.withUnknown x f).respond w es = (s.respond w es).withUnknown x f := rfl

theorem State.illegalCommand_withUnknown : (s.withUnknown x f).illegalCommand = s.illegalCommand.withUnknown x f := rfl

theorem State.setPins_withUnknown (levels : Word) :
    (s.withUnknown x f).setPins levels = (s.setPins levels).withUnknown x f := rfl

theorem State.writeX_withUnknown (r : Reg) (v : Word) :
    (s.withUnknown x f).writeX r v = (s.writeX r v).withUnknown (x.set r v) f := rfl

theorem State.buildTable_withUnknown (ref : Word) :
    (s.withUnknown x f).buildTable ref = (s.buildTable ref).withUnknown x f := rfl

theorem State.loadPeriod_withUnknown (p : Word) :
    (s.withUnknown x f).loadPeriod p = (s.loadPeriod p).withUnknown x f := rfl

theorem State.silence_withUnknown : (s.withUnknown x f).silence = s.silence.withUnknown x f := rfl

theorem State.initDecoder_withUnknown (a b : BitVec 5) :
    (s.withUnknown x f).initDecoder a b = (s.initDecoder a b).withUnknown x f := rfl

theorem State.setSlot_withUnknown (d : Dir) (c : Slot) :
    (s.withUnknown x f).setSlot d c = (s.setSlot d c).withUnknown x f := by cases d <;> rfl

theorem State.disableDecoder_withUnknown : (s.withUnknown x f).disableDecoder = s.disableDecoder.withUnknown x f := rfl

theorem State.enableDecoder_withUnknown : (s.withUnknown x f).enableDecoder = s.enableDecoder.withUnknown x f := by
  unfold State.enableDecoder
  cases he : s.en <;> simp [State.withUnknown, he]

theorem State.decodeSample_withUnknown (a b : Bool) :
    (s.withUnknown x f).decodeSample a b = (s.decodeSample a b).withUnknown x f := by
  simp only [State.decodeSample, State.withUnknown]
  split <;> rfl

/-- The registers of a state whose registers and counter were replaced. -/
theorem State.readX_withUnknown (u : State) (r : Reg) : (s.withUnknown u.x f).readX r = u.readX r := by cases r <;> rfl

/-- A state that agrees on the known registers, taken apart. -/
theorem agreeOn_iff {known : List Reg} {s u : State} :
    AgreeOn known s u ↔ ∃ x f, u = s.withUnknown x f ∧ ∀ r ∈ known, (s.withUnknown x f).readX r = s.readX r := by
  constructor
  · rintro ⟨hk, hu⟩
    exact ⟨u.x, u.free, hu, fun r hr => by rw [← hu]; exact hk r hr⟩
  · rintro ⟨x, f, rfl, hk⟩
    exact ⟨hk, rfl⟩

end Sys2Proof.Machine
end

