-- ==== Sys2Proof/Laws/Encoding.lean ====
section
/-! SUPPORT. The opcode map: which row a word has, and that every row fixes the eight opcode bits (spec/30_encoding.md R83,
R86). -/
namespace Sys2Proof
open Machine

/-- Every row fixes all eight opcode bits: a word of the row's form has the row's opcode (R86). -/
theorem opField_of_form {w : Word} {r : OpRow} (hr : r ∈ opcodeMap) (h : w &&& r.mask = r.pattern) :
    opField w = opField r.pattern := by
  have hm : opField r.mask = BitVec.allOnes 8 :=
    (by decide : ∀ r ∈ opcodeMap, opField r.mask = BitVec.allOnes 8) r hr
  have := congrArg opField h
  rw [← this]
  simp only [opField] at hm ⊢
  rw [BitVec.extractLsb'_and, hm, BitVec.and_allOnes]

/-- The rows have different opcodes (R86). -/
theorem row_of_opField : ∀ r₁ ∈ opcodeMap, ∀ r₂ ∈ opcodeMap, opField r₁.pattern = opField r₂.pattern → r₁ = r₂ := by
  decide

/-- The row found has the word's form. -/
theorem rowOf_some {w : Word} {r : OpRow} (h : rowOf w = some r) : r ∈ opcodeMap ∧ w &&& r.mask = r.pattern :=
  ⟨List.mem_of_find?_eq_some h, by simpa using List.find?_some h⟩

/-- No row found: the word has no row's form. -/
theorem rowOf_none {w : Word} (h : rowOf w = none) : ∀ r ∈ opcodeMap, w &&& r.mask ≠ r.pattern := by
  intro r hr
  simpa using List.find?_eq_none.1 h r hr

/-- A word of a row's form finds that row. -/
theorem rowOf_eq {w : Word} {r : OpRow} (hr : r ∈ opcodeMap) (h : w &&& r.mask = r.pattern) : rowOf w = some r := by
  cases hf : rowOf w with
  | none => exact absurd h (rowOf_none hf r hr)
  | some r' =>
    obtain ⟨h1, h2⟩ := rowOf_some hf
    rw [row_of_opField _ h1 _ hr ((opField_of_form h1 h2).symm.trans (opField_of_form hr h))]

/-- Decoding a word of a row's form: the fields, or the value check that fails. -/
theorem decode_of_form {w : Word} {r : OpRow} (hr : r ∈ opcodeMap) (h : w &&& r.mask = r.pattern) :
    decode w = (match (fieldsOf r.op w).illFormed? with
      | none => .ok (fieldsOf r.op w)
      | some why => .error (.illFormed why)) := by
  cases hc : (fieldsOf r.op w).illFormed? <;> simp only [decode, rowOf_eq hr h, hc]

/-- What decodes is well-formed and has its row's form. -/
theorem decode_ok {w : Word} {i : Instr} (h : decode w = .ok i) :
    i.wellFormed ∧ ∃ r ∈ opcodeMap, w &&& r.mask = r.pattern ∧ fieldsOf r.op w = i := by
  cases hr : rowOf w with
  | none => simp only [decode, hr] at h; split at h <;> cases h
  | some r =>
    obtain ⟨h1, h2⟩ := rowOf_some hr
    simp only [decode, hr] at h
    split at h
    · cases h; exact ⟨by assumption, r, h1, h2, rfl⟩
    · cases h

/-- The row of a command (R85). -/
def rowFor : Instr → OpRow
  | .nop => ⟨.nop, 0x00000000#32, 0xFFFFFFFF#32⟩
  | .ldh _ _ => ⟨.ldh, 0x01000000#32, 0xFF3F0000#32⟩
  | .ldl _ _ => ⟨.ldl, 0x02000000#32, 0xFF3F0000#32⟩
  | .rdx _ => ⟨.rdx, 0x03000000#32, 0xFFCFFFFF#32⟩
  | .rdcsr _ _ => ⟨.rdcsr, 0x04000000#32, 0xFF3FFF00#32⟩
  | .ftbuild _ => ⟨.ftbuild, 0x10000000#32, 0xFFCFFFFF#32⟩
  | .nres _ _ _ => ⟨.nres, 0x11000000#32, 0xFF3FF000#32⟩
  | .pcalc _ => ⟨.pcalc, 0x12000000#32, 0xFFCFFFFF#32⟩
  | .qinit _ _ => ⟨.qinit, 0x20000000#32, 0xFFFFE0E0#32⟩
  | .qatt _ _ => ⟨.qatt, 0x21000000#32, 0xFFEF0000#32⟩
  | .qen => ⟨.qen, 0x22000000#32, 0xFFFFFFFF#32⟩
  | .qdis => ⟨.qdis, 0x23000000#32, 0xFFFFFFFF#32⟩

theorem rowFor_mem (i : Instr) : rowFor i ∈ opcodeMap := by
  cases i <;> simp [rowFor, opcodeMap]

end Sys2Proof
end

