-- ==== Sys2Proof/Laws/PerInstr.lean ====
section
/-! SUPPORT. One lemma per command: the word of a command has the form of the command's row, `mask` and `match` (spec/30_encoding.md
R83, R85). -/
namespace Sys2Proof.Laws.EncodeForm
open Sys2Proof.Machine

/-- The word of the command has its row's form. -/
def Statement (i : Instr) : Prop := encode i &&& (rowFor i).mask = (rowFor i).pattern

theorem nop : Statement .nop := by unfold Statement; decide

theorem ldh (rd : Reg) (imm : BitVec 16) : Statement (.ldh rd imm) := by
  show (0x01#8 ++ regBits rd ++ 0#6 ++ imm) &&& (0xFF#8 ++ 0#2 ++ 0x3F#6 ++ 0#16) = 0x01000000#32
  simp only [BitVec.and_append, BitVec.and_zero]; decide

theorem ldl (rd : Reg) (imm : BitVec 16) : Statement (.ldl rd imm) := by
  show (0x02#8 ++ regBits rd ++ 0#6 ++ imm) &&& (0xFF#8 ++ 0#2 ++ 0x3F#6 ++ 0#16) = 0x02000000#32
  simp only [BitVec.and_append, BitVec.and_zero]; decide

theorem rdx (rs : Reg) : Statement (.rdx rs) := by
  unfold Statement; cases rs <;> decide

theorem rdcsr (rd : Reg) (csr : BitVec 8) : Statement (.rdcsr rd csr) := by
  show (0x04#8 ++ regBits rd ++ 0#14 ++ csr) &&& (0xFF#8 ++ 0#2 ++ 0x3FFF#14 ++ 0#8) = 0x04000000#32
  simp only [BitVec.and_append, BitVec.and_zero]; decide

theorem ftbuild (rs : Reg) : Statement (.ftbuild rs) := by
  unfold Statement; cases rs <;> decide

theorem nres (rd : Reg) (name : BitVec 4) (oct : BitVec 8) : Statement (.nres rd name oct) := by
  show (0x11#8 ++ regBits rd ++ 0#10 ++ name ++ oct) &&& (0xFF#8 ++ 0#2 ++ 0x3FF#10 ++ 0#4 ++ 0#8) = 0x11000000#32
  simp only [BitVec.and_append, BitVec.and_zero]; decide

theorem pcalc (rs : Reg) : Statement (.pcalc rs) := by
  unfold Statement; cases rs <;> decide

theorem qinit (pina pinb : BitVec 5) : Statement (.qinit pina pinb) := by
  show (0x20#8 ++ 0#11 ++ pinb ++ 0#3 ++ pina) &&& (0xFF#8 ++ 0x7FF#11 ++ 0#5 ++ 0x7#3 ++ 0#5) = 0x20000000#32
  simp only [BitVec.and_append, BitVec.and_zero]; decide

theorem qatt (dir : Dir) (handle : BitVec 16) : Statement (.qatt dir handle) := by
  show (0x21#8 ++ 0#3 ++ dirBit dir ++ 0#4 ++ handle) &&& (0xFF#8 ++ 0x7#3 ++ 0#1 ++ 0xF#4 ++ 0#16) = 0x21000000#32
  simp only [BitVec.and_append, BitVec.and_zero]; decide

theorem qen : Statement .qen := by unfold Statement; decide

theorem qdis : Statement .qdis := by unfold Statement; decide

end Sys2Proof.Laws.EncodeForm
end

