-- ==== Sys2Proof/Tests/Slice0.lean ====
section
/-! SUPPORT. Tests of the model against the worked words and vectors of spec/30_encoding.md section 8 and
spec/95_test_vectors.md (cited as "95"), and for each statement with hypotheses a witness that meets them. -/
namespace Sys2Proof.Tests
open Sys2Proof.Machine

/-! ## Helpers -/

/-- The next state of an outcome, or `State.reset` for a stop. -/
def after (o : Host.Outcome State Fault Refusal) : State :=
  match o with
  | .next t => t
  | .fault _ => .reset
  | .refused _ => .reset

/-- Does the outcome go on? -/
def goesOn (o : Host.Outcome State Fault Refusal) : Bool :=
  match o with
  | .next _ => true
  | .fault _ => false
  | .refused _ => false

/-- `s` with the four general registers. -/
def withX (s : State) (a b c d : Word) : State := { s with x := ⟨a, b, c, d⟩ }

/-- The registers of 95 section 2.7. -/
def marked : State := withX .reset 0x11111111 0x22222222 0x33333333 0x44444444

/-- `CFG-REF` after `LDH x0, 440` and `FTBUILD x0`: table T1 of 95 section 2.3. -/
def built : State := (withX .reset 0x01B80000 0 0 0).buildTable 0x01B80000

/-- `CFG-B` after `LDH x0, 440` and `FTBUILD x0`: table T3. -/
def builtB : State := (withX (.resetWith Config.cfgB) 0x01B80000 0 0 0).buildTable 0x01B80000

/-- The set-up of 95 section 2.6 at a decoder state, with a count, the pins at `(a, b)` and what comes next. -/
def decoderAt (q : QState) (tc : Word) (levels : Word) (inputs : List Input) : State :=
  { State.reset.initDecoder 2 3 with
    qs := q, tc := tc, din := levels, inputs := inputs, cbCw := ⟨true, 0x00C1⟩, cbCcw := ⟨true, 0x00C2⟩ }

/-- `PCALC`'s starting state of 95 section 2.5. -/
def sounding (freq : Word) : State :=
  { withX .reset freq 0 0 0 with period := 0x00001234, duty := 0x0000091A, sil := false }

/-- `s` with an input waiting. -/
def waiting (s : State) (inputs : List Input) : State := { s with inputs := inputs }

/-! ## WellFormed: each check refuses an ill-formed term -/

theorem test_unassigned_csr_is_ill_formed : (Instr.rdcsr .x0 0x0A).illFormed? = some .unassignedCsr := by decide
theorem test_csr_after_the_last_is_ill_formed : (Instr.rdcsr .x0 0x16).illFormed? = some .unassignedCsr := by decide
theorem test_reserved_note_name_is_ill_formed : (Instr.nres .x0 12 4).illFormed? = some .reservedNote := by decide
theorem test_rest_with_an_octave_is_ill_formed : (Instr.nres .x0 15 1).illFormed? = some .reservedNote := by decide
theorem test_last_note_is_well_formed : (Instr.nres .x0 11 0x80).wellFormed := by decide

/-! ## Decode: the worked words of 30_encoding.md section 8, bit by bit as R81 and R82 lay them out -/

theorem test_decode_nop : decode 0b00000000_00_00_0000_0000000000000000#32 = .ok .nop := by decide
theorem test_decode_ldh : decode 0b00000001_00_00_0000_0000000110111000#32 = .ok (.ldh .x0 440) := by decide
theorem test_decode_ldl : decode 0b00000010_10_00_0000_0100000000000000#32 = .ok (.ldl .x2 0x4000) := by decide
theorem test_decode_rdx : decode 0b00000011_00_01_0000_0000000000000000#32 = .ok (.rdx .x1) := by decide
theorem test_decode_rdcsr : decode 0b00000100_11_00_0000_00000000_00000100#32 = .ok (.rdcsr .x3 0x04) := by decide
theorem test_decode_ftbuild : decode 0b00010000_00_00_0000_0000000000000000#32 = .ok (.ftbuild .x0) := by decide
theorem test_decode_nres : decode 0b00010001_01_00_0000_0000_0011_00000100#32 = .ok (.nres .x1 3 4) := by decide
theorem test_decode_nres_rest : decode 0b00010001_10_00_0000_0000_1111_00000000#32 = .ok (.nres .x2 15 0) := by decide
theorem test_decode_pcalc : decode 0b00010010_00_01_0000_0000000000000000#32 = .ok (.pcalc .x1) := by decide
theorem test_decode_qinit : decode 0b00100000_00_00_0000_000_00011_000_00010#32 = .ok (.qinit 2 3) := by decide
theorem test_decode_qatt : decode 0b00100001_00_01_0000_1011111011101111#32 = .ok (.qatt .ccw 0xBEEF) := by decide
theorem test_decode_qen : decode 0b00100010_00_00_0000_0000000000000000#32 = .ok .qen := by decide
theorem test_decode_qdis : decode 0b00100011_00_00_0000_0000000000000000#32 = .ok .qdis := by decide

/-- 95 section 2.7: forms of a command with a must-be-zero bit set. -/
theorem test_must_be_zero_words_are_illegal :
    ([0x00000001, 0x00010000, 0x00400000, 0x01010000, 0x02080000, 0x03000001, 0x03400000, 0x04000100, 0x04100000,
      0x10000001, 0x10400000, 0x11001000, 0x11100000, 0x12000100, 0x12C00000, 0x20002000, 0x20000020, 0x20400000,
      0x20010000, 0x21200000, 0x21400000, 0x21010000, 0x22000001, 0x22100000, 0x23800000, 0x2300FFFF] : List Word).all
      (fun w => decode w == .error .mustBeZero) = true := by decide

/-- 95 section 2.7: unassigned opcodes. -/
theorem test_unassigned_opcodes_are_illegal :
    ([0x05000000, 0x0F000000, 0x13000000, 0x1F000000, 0x24000000, 0xFF000000] : List Word).all
      (fun w => decode w == .error .unassignedOpcode) = true := by decide

/-- 95 section 2.7: values that fail a check. -/
theorem test_checked_values_are_illegal :
    ([0x0400000A, 0x04000016, 0x040000FF] : List Word).all (fun w => decode w == .error (.illFormed .unassignedCsr)) = true ∧
    ([0x11000C04, 0x11000D00, 0x11000E7F, 0x11000F01, 0x11000FFF] : List Word).all
      (fun w => decode w == .error (.illFormed .reservedNote)) = true := by decide

/-- 95 section 2.7: "Legal words next to them". -/
theorem test_legal_words_beside_the_illegal :
    ([0x11000F00, 0x20001F1F, 0x21000000, 0x2110FFFF, 0x04C00015, 0x01C0FFFF] : List Word).map (fun w => (decode w).toOption) =
      [some (.nres .x0 15 0), some (.qinit 31 31), some (.qatt .cw 0), some (.qatt .ccw 0xFFFF), some (.rdcsr .x3 0x15),
       some (.ldh .x3 0xFFFF)] := by decide

theorem test_decodeTableWord_reads_the_low_bits : decodeTableWord 32 0x11400304 = some (.nres .x1 3 4) := by decide
theorem test_decodeTableWord_refuses : decodeTableWord 32 0x05000000 = none := by decide

/-- 30_encoding.md section 8, read the other way. -/
theorem test_encode_worked_words :
    assemble [.ldl .x2 0x4000, .rdcsr .x3 4, .nres .x1 0 0xFF, .qinit 2 3, .qatt .ccw 0xBEEF] =
      [0x02804000, 0x04C00004, 0x114000FF, 0x20000302, 0x2110BEEF] := by decide

/-- 30_encoding.md R90: the spelling of a note with a negative octave. -/
theorem test_asm_text : asmText (.nres .x1 0 0xFF) = some "NRES x1, S0.-1" := by decide

/-! ## Reset (95 section 2.1) -/

theorem test_reset_csrs_of_cfg_ref : allCsrs.map State.reset.readCsr =
    [8, 0, 0, 0, 0, 0, 0, 0, 0, 0, 0x00F42400, 8, 1, 0xFFFF, 0x00030108, 0x00002000] := by decide
theorem test_reset_csrs_of_cfg_b : allCsrs.map (State.resetWith Config.cfgB).readCsr =
    [8, 0, 0, 0, 0, 1, 0, 0, 0, 0, 0x000F4240, 0x40, 4, 0xFF, 0x00000002, 0x00000801] := by decide
theorem test_tick_before_qinit_is_dropped :
    let t := after (step { waiting .reset [.tick] with din := 0xFFFFFFFF })
    (t.readCsr .status, t.qs, t.tc, t.events) = (8, .start, 0, []) := by decide

/-! ## One step of each command -/

/-- 95 section 2.2: `NOP`. -/
theorem test_nop : after (exec .nop marked) = { marked with rsp := some 0 } := by decide
/-- 95 section 2.2: the low half is cleared. -/
theorem test_ldh_clears_the_low_half : (after (exec (.ldh .x0 1) (withX .reset 0x01B88000 0 0 0))).x.x0 = 0x00010000 := by decide
theorem test_ldl_keeps_the_high_half : (after (exec (.ldl .x0 0x8000) (withX .reset 0x01B80000 0 0 0))).x.x0 = 0x01B88000 := by decide
theorem test_rdx_responds : (after (exec (.rdx .x3) (withX .reset 0 0 0 0xFFFFFFFF))).rsp = some 0xFFFFFFFF := by decide
theorem test_rdcsr_cfgtbl : (after (exec (.rdcsr .x2 0x14) .reset)).x.x2 = 0x00030108 := by decide
theorem test_rdcsr_unassigned_sets_ill : after (exec (.rdcsr .x1 0x16) marked) = { marked with ill := true, rsp := some 0 } := by decide

/-- 95 section 2.3, T1: the first row, and words of the rows after it. -/
theorem test_ftbuild_t1 : [0, 1, 2, 3, 4, 5, 6, 7, 8, 9, 10, 11, 39, 95, 96].map (Memory.read (after (exec (.ftbuild .x0) built)).ft) =
    [some 0x00370000, some 0x003A453E, some 0x003DBC44, some 0x00416809, some 0x00454BB0, some 0x00496A8C, some 0x004DC821,
     some 0x0052682A, some 0x00574E9B, some 0x005C7FA5, some 0x0061FFB5, some 0x0067D380, some 0x020B404A, some 0x33E9C015,
     none] := by decide +kernel
/-- 95 section 2.3, T6, with U2: one above the last pitch of the contract only the last word is free, the one before it is T6's. -/
theorem test_saturating_word_is_free : tableWord Config.cfgRef 0x0879C7CA 10 7 = 0xF1A1BF48 ∧
    tableWord Config.cfgRef 0x0879C7CA 11 7 = Config.absurdWord Config.cfgRef 0x0879C7CA 11 7 := ⟨by decide, if_neg (by decide)⟩
/-- 95 section 2.3, T5 and T6: R133's value where it rounds to 0, the last below saturation and the first at it. -/
theorem test_stored_value_ends :
    (storedValue Config.cfgRef 3 11 0, storedValue Config.cfgRef 1 11 7, storedValue Config.cfgRef 0x0879C7C9 11 7,
      storedValue Config.cfgRef 0x0879C7CA 11 7, storedValue Config.cfgRef 0xFFFFFFFF 0 0) =
    (1, 0x1E, 0xFFFFFFF3, 0xFFFFFFFF, 0x20000000) := by decide +kernel

/-- 95 section 2.4, `CFG-REF`. -/
theorem test_nres_cfg_ref : [(0, 4), (3, 5), (5, 0), (0, 0xFF), (11, 0x80), (0, 9), (11, 0x7F), (15, 0)].map
      (fun (n : BitVec 4 × BitVec 8) => (after (exec (.nres .x1 n.1 n.2) built)).x.x1) =
    [0x01B80000, 0x04168094, 0x00496A8C, 0x00370000, 0x0067D380, 0x1B800000, 0x33E9C015, 0] := by decide +kernel
/-- 95 section 2.4, `CFG-B`. -/
theorem test_nres_cfg_b : [(0, 0), (11, 1), (0, 2), (4, 0x7F), (4, 0x80)].map
      (fun (n : BitVec 4 × BitVec 8) => (after (exec (.nres .x2 n.1 n.2) builtB)).x.x2) =
    [0x01B80000, 0x067D3803, 0x03700000, 0x0454BB04, 0x022A5D82] := by decide +kernel

/-- 95 section 2.5, `CFG-REF`: both clamps, an odd period, the exact end of the range. -/
theorem test_pcalc_cfg_ref : ([0x01B80000, 1, 0x001E8480, 0x001E8481, 0x7A120001, 0xFFFFFFFF, 0] : List Word).map
      (fun f => let t := after (exec (.pcalc .x0) (sounding f)); (t.period, t.duty, t.sil)) =
    [(0x11C1, 0x8E0, false), (0xFFFF, 0x7FFF, false), (0xFFFF, 0x7FFF, false), (0xFFFF, 0x7FFF, false), (0x3F, 0x1F, false),
     (0x1E, 0x0F, false), (0x1234, 0x91A, true)] := by decide +kernel
/-- 95 section 2.5: the events. -/
theorem test_pcalc_events : ((after (exec (.pcalc .x0) (sounding 0x01B80000))).events, (after (exec (.pcalc .x0) (sounding 0))).events) =
    ([.timerLoad 4545 2272], [.timerSilence]) := by decide +kernel

/-- 95 section 2.6, Q22: `QINIT` again keeps the slots. -/
theorem test_qinit_again : let t := after (exec (.qinit 4 5) (decoderAt .cw1 2 0 []))
    (t.tc, t.qs, t.readCsr .pinsel, t.readCsr .cbcw, t.readCsr .status) = (0, .start, 0x504, 0x000100C1, 0x0E) := by decide
theorem test_qatt_fills_one_slot : let t := after (exec (.qatt .cw 0x1111) .reset)
    (t.readCsr .cbcw, t.readCsr .cbccw) = (0x00011111, 0) := by decide
/-- 95 section 2.6, Q16 and Q17. -/
theorem test_qen : ((after (exec .qen (decoderAt .cw2 0 0 []))).qs, (after (exec .qen { decoderAt .cw2 0 0 [] with en := false })).qs) =
    (.cw2, .start) := by decide
/-- 95 section 2.6, Q24 and Q15. -/
theorem test_qdis : let t := after (exec .qdis (decoderAt .cw2 0 0 []))
    (t.readCsr .status, t.qs) = (0x0A, .cw2) := by decide

/-! ## Ticks, events, illegal words, the fetch -/

/-- 95 section 2.6, Q18: the count wraps upward, at the clockwise commit. -/
theorem test_tick_commits_clockwise : let t := after (step (decoderAt .cw3 0x7FFFFFFF 0 [.tick]))
    (t.tc, t.dir, t.qs, t.events) = (0x80000000, .cw, .start, [.callback .cw 0x00C1]) ∧
    (t.evtCwO, t.evtCcwO, t.evtHandleO) = (true, false, some 0x00C1) := by decide
/-- 95 section 2.6, Q19. -/
theorem test_tick_commits_counter_clockwise : let t := after (step (decoderAt .ccw3 0x80000000 0 [.tick]))
    (t.tc, t.dir, t.qs, t.events) = (0x7FFFFFFF, .ccw, .start, [.callback .ccw 0x00C2]) := by decide
/-- 95 section 2.6, Q20: no callback attached, no event. -/
theorem test_tick_without_a_callback : let t := after (step { decoderAt .cw3 0 0 [.tick] with cbCw := ⟨false, 0⟩ })
    (t.tc, t.events) = (1, []) := by decide
/-- `PINA` is pin 2 and `PINB` pin 3: pattern (1,0) is level 4. -/
theorem test_tick_reads_a_then_b : (after (step (decoderAt .start 0 4 [.tick]))).qs = .cw1 := by decide
theorem test_pins_sets_the_levels : let t := after (step (decoderAt .cw1 5 0 [.pins 12, .tick]))
    (t.din, t.qs, t.tc, t.inputs) = (12, .cw1, 5, [.tick]) := by decide
/-- 30_encoding.md R90: `.pins 1,0` sets only the two selected pins. -/
theorem test_pins_directive : (decoderAt .start 0 0xFFFFFFF0 []).pinsDirective true false = .pins 0xFFFFFFF4 := by decide
/-- 95 section 2.7. -/
theorem test_illegal_word : after (step (waiting marked [.cmd 0x11000C04])) = { marked with ill := true, rsp := some 0 } := by decide
theorem test_withFetchWord_is_the_next_step : after (step (State.reset.withFetchWord 32 0x01C0FFFF)) =
    { State.reset with x := ⟨0, 0, 0, 0xFFFF0000⟩, rsp := some 0 } := by decide
theorem test_reset_step_keeps_the_inputs : let t := after (step (waiting { built with ill := true } [.rst, .tick]))
    (t.readCsr .status, t.ft, t.inputs) = (8, [], [.tick]) := by decide

/-! ## Witnesses: a state and operands that meet the hypotheses of a statement together -/

theorem witness_DecodeOfEncodeGivesTheCommand :
    (Instr.rdcsr .x3 0x09).wellFormed ∧ (Instr.rdcsr .x3 0x10).wellFormed ∧ (Instr.rdcsr .x3 0x15).wellFormed ∧
    (Instr.nres .x1 11 0xFF).wellFormed ∧ (Instr.nres .x1 15 0).wellFormed ∧ (Instr.qinit 31 31).wellFormed := by decide
theorem witness_DecodedWordIsItsEncoding : decode 0x114000FF#32 = .ok (.nres .x1 0 0xFF) := by decide
theorem witness_AtMostOneRowMatches :
    (⟨.nres, 0x11000000#32, 0xFF3FF000#32⟩ : OpRow) ∈ opcodeMap ∧ 0x11400304#32 &&& 0xFF3FF000#32 = 0x11000000#32 := by decide
theorem witness_MustBeZeroBitMakesTheWordIllegal :
    (⟨.qinit, 0x20000000#32, 0xFFFFE0E0#32⟩ : OpRow) ∈ opcodeMap ∧ opField 0x20002000#32 = opField 0x20000000#32 ∧
    0x20002000#32 &&& 0xFFFFE0E0#32 ≠ 0x20000000#32 := by decide
theorem witness_ReservedOpcodesAreIllegal :
    ([0x05FFFFFF, 0x0F000000, 0x13000000, 0x1F000000, 0x24000000, 0xFF000000] : List Word).all (fun w =>
      decide ((0x05 ≤ (opField w).toNat ∧ (opField w).toNat ≤ 0x0F) ∨ (0x13 ≤ (opField w).toNat ∧ (opField w).toNat ≤ 0x1F) ∨
        0x24 ≤ (opField w).toNat)) = true := by decide
theorem witness_StepRunsTheDecodedCommand :
    (waiting built [.cmd 0x11400304, .tick]).inputs = .cmd 0x11400304 :: [.tick] ∧
    decode 0x11400304#32 = .ok (.nres .x1 3 4) := by decide
/-- One word of each of the four kinds (95 section 2.7), the last two at the boundary of their ranges. -/
theorem witness_IllegalWordOnlySetsIll :
    (waiting marked [.cmd 0x22000001, .tick]).inputs = .cmd 0x22000001 :: [.tick] ∧
    IllegalWord 0x24000000 ∧ IllegalWord 0x22000001 ∧ IllegalWord 0x0400000A ∧ IllegalWord 0x04000016 ∧
    IllegalWord 0x11000C04 ∧ IllegalWord 0x11000F01 ∧ ¬ IllegalWord 0x11000F00 ∧ ¬ IllegalWord 0x04C00015 :=
  ⟨by decide, by decide, by decide, by decide, by decide, by decide, by decide, by decide, by decide⟩
theorem witness_NothingHappensWithoutAnInput : built.inputs = [] := by decide
theorem witness_PinsInputOnlySetsTheLevels : (waiting built [.pins 12, .tick]).inputs = .pins 12 :: [.tick] := rfl
/-- The smallest and the largest legal parameters among them. -/
theorem witness_InvariantHoldsAtReset :
    Config.cfgRef.legal ∧ Config.cfgB.legal ∧
    (⟨1, -128, 0, 1, 1, 0, 0, .cw, 1⟩ : Params).legal ∧
    (⟨16, 112, 15, 2 ^ 32 - 1, 65535, 2 ^ 32 - 1, 2 ^ 32 - 1, .ccw, 32⟩ : Params).legal := by decide
theorem witness_EveryStepCompletes : (waiting built [.tick]).cfg.legal := by decide
theorem witness_OnlyRdxRespondsWithAValue :
    step (waiting marked [.cmd 0x03100000]) = .next (after (step (waiting marked [.cmd 0x03100000]))) ∧
    decode 0x03100000#32 = .ok (.rdx .x1) ∧
    step (waiting marked [.cmd 0x05000000]) = .next (after (step (waiting marked [.cmd 0x05000000]))) ∧
    (∀ rs, decode 0x05000000#32 ≠ .ok (.rdx rs)) := ⟨rfl, by decide, rfl, fun rs => by cases rs <;> decide⟩
theorem witness_NopChangesNothing : opField 0x00000001#32 = 0 ∧ 0x00000001#32 ≠ 0#32 := by decide
theorem witness_ConfigurationRegistersAreTheParameters :
    builtB.cfg.legal ∧ step (waiting builtB [.rst]) = .next (after (step (waiting builtB [.rst]))) := ⟨by decide, rfl⟩
/-- The assigned numbers end at 0x09 and 0x15; 0x0A, 0x0F and 0x16 fall under the other clause. -/
theorem witness_RdcsrCopiesAssignedRegisters :
    ([0x00, 0x09, 0x10, 0x15] : List (BitVec 8)).all (fun n =>
      decide (n.toNat ≤ 0x09 ∨ (0x10 ≤ n.toNat ∧ n.toNat ≤ 0x15))) = true ∧
    ([0x0A, 0x0F, 0x16, 0xFF] : List (BitVec 8)).all (fun n =>
      !decide (n.toNat ≤ 0x09 ∨ (0x10 ≤ n.toNat ∧ n.toNat ≤ 0x15))) = true := by decide
theorem witness_LoadImmediateLoadsTheConstant :
    (waiting marked [.cmd 0x0140020B, .cmd 0x02404000, .tick]).inputs =
      (assemble (pseudoLi .x1 0x020B4000)).map Input.cmd ++ [.tick] := by decide
theorem witness_FtbuildStoresEveryEntry :
    built.cfg.legal ∧ 7 < built.cfg.nOct ∧ 12 * built.cfg.nOct ≤ 96 ∧
    EntryInContract Config.cfgRef 4 0 0 ∧ EntryInContract Config.cfgRef 0x0879C7C9 11 7 := by decide
theorem witness_FtbuildReplacesTheWholeTable : TableWf built ∧ TableWf State.reset := by decide +kernel
theorem witness_FtbuildIsIdempotent : Memory.wf built.ft := by decide +kernel
theorem witness_RomEntriesAreTheRoundedRatios : 0 < 12 ∧ 11 < 12 := by decide
theorem witness_StoredValueIsNearTheIdealPitch :
    Config.cfgRef.legal ∧ 7 < Config.cfgRef.nOct ∧ entryValue Config.cfgRef 0x01B80000 11 7 < 2 ^ 32 ∧
    entryValue Config.cfgRef 0x0879C7C9 11 7 < 2 ^ 32 ∧ Config.cfgRef.octShift ≤ 3 ∧
    entryValue Config.cfgRef 0x01B80000 0 3 < 2 ^ 32 := by decide

/-- `built` meets the invariant. -/
theorem inv_built : Inv built :=
  ⟨by decide, by decide +kernel, ⟨by decide +kernel, by decide⟩, by decide, by decide⟩

theorem witness_TableRisesInIndexOrder : Inv built ∧ built.flag .tv = true ∧ 94 + 1 < 12 * built.cfg.nOct ∧
    EntryInContract built.cfg built.refPitch (94 % 12) (94 / 12) ∧ EntryInContract built.cfg built.refPitch (95 % 12) (95 / 12) :=
  ⟨inv_built, by decide, by decide, by decide, by decide⟩
/-- Names 12 and 14 and `name` 15 with `oct` 1 fall under the last clause, names 0 and 11 under the second, `Rest` under the
first. -/
theorem witness_NresResolvesEveryNote :
    (((15 : BitVec 4).toNat = 15 ∧ (0 : BitVec 8).toInt = 0) ∧
    (built.cfg.legal ∧ Memory.read built.ft (12 * min (max ((0x80 : BitVec 8).toInt - built.cfg.firstOct) 0)
      ((built.cfg.nOct : Int) - 1) + ((0 : BitVec 4).toNat : Int)).toNat = some 0x00370000 ∧
    Memory.read built.ft (12 * min (max ((0x7F : BitVec 8).toInt - built.cfg.firstOct) 0)
      ((built.cfg.nOct : Int) - 1) + ((11 : BitVec 4).toNat : Int)).toNat = some 0x33E9C015) ∧
    (¬ (12 : BitVec 4).toNat ≤ 11 ∧ ¬ ((15 : BitVec 4).toNat = 15 ∧ (1 : BitVec 8).toInt = 0) ∧ ¬ (15 : BitVec 4).toNat ≤ 11)) := by
  decide
theorem witness_NresOfAnUnwrittenWordIsFree :
    State.reset.cfg.legal ∧ (11 : BitVec 4).toNat ≤ 11 ∧
    Memory.read State.reset.ft (12 * min (max ((8 : BitVec 8).toInt - State.reset.cfg.firstOct) 0)
      ((State.reset.cfg.nOct : Int) - 1) + ((11 : BitVec 4).toNat : Int)).toNat = none := by decide
/-- One above the top octave of `CFG-REF` and one below its first. -/
theorem witness_OctavesBeyondTheTableClamp :
    built.cfg.legal ∧ built.cfg.firstOct + built.cfg.nOct - 1 < (9 : BitVec 8).toInt ∧
    (0 : BitVec 8).toInt < built.cfg.firstOct := by decide
theorem witness_TonesAreNeverSilentInContract : Inv built ∧ built.flag .tv = true ∧ PitchInContract built.cfg built.refPitch :=
  ⟨inv_built, by decide, by unfold PitchInContract; decide +kernel⟩
theorem witness_PcalcComputesOrSilences :
    ((sounding 1).cfg.legal ∧ (sounding 1).readX .x0 ≠ 0) ∧ (sounding 0).readX .x0 = 0 := by decide
theorem witness_PeriodNeverRisesWithFrequency :
    let s := withX .reset 0x01B80000 0x020B4000 0 0
    s.cfg.legal ∧ s.readX .x0 ≠ 0 ∧ (s.readX .x0).toNat ≤ (s.readX .x1).toNat ∧
    exec (.pcalc .x0) s = .next (after (exec (.pcalc .x0) s)) ∧ exec (.pcalc .x1) s = .next (after (exec (.pcalc .x1) s)) :=
  ⟨by decide, by decide, by decide, rfl, rfl⟩
/-- 95 section 2.5: `CFG-REF` at its largest period exactly, and `CFG-B` at its smallest. -/
theorem witness_ToneIsNearTheRequestedFrequency :
    let s := sounding 0x001E8481
    let u := withX (.resetWith Config.cfgB) 0x0F424000 0 0 0
    (s.cfg.legal ∧ s.readX .x0 ≠ 0 ∧ s.cfg.perMin ≤ s.cfg.fClk * 65536 / (s.cfg.presc * (s.readX .x0).toNat) ∧
      s.cfg.fClk * 65536 / (s.cfg.presc * (s.readX .x0).toNat) = s.cfg.perMax) ∧
    (u.cfg.legal ∧ u.readX .x0 ≠ 0 ∧ u.cfg.perMin = u.cfg.fClk * 65536 / (u.cfg.presc * (u.readX .x0).toNat) ∧
      u.cfg.fClk * 65536 / (u.cfg.presc * (u.readX .x0).toNat) ≤ u.cfg.perMax) := by decide

theorem witness_QdisDisables : (decoderAt .cw2 0 0 [.tick]).inputs = .tick :: [] := rfl
/-- A move, and a commit in each direction, and a disabled decoder. -/
theorem witness_TickStepFollowsItsRule :
    let s := decoderAt .start 0 4 [.tick]
    s.inputs = .tick :: [] ∧ s.flag .en = true ∧ s.pinA.toNat < s.cfg.npin ∧ s.pinB.toNat < s.cfg.npin ∧
    ShowsPattern s s.din true false ∧ ShowsPattern (decoderAt .cw3 0 0 [.tick]) 0 false false ∧
    (qnext .cw3 false false).2 = some .cw ∧ (qnext .ccw3 false false).2 = some .ccw ∧
    (waiting .reset [.tick]).inputs = .tick :: [] ∧ (waiting .reset [.tick]).flag .en = false := by
  unfold ShowsPattern; decide
/-- Pins 31 and 30 do not exist under `CFG-B`. -/
theorem witness_AbsentPinsStillFollowTheTable :
    let s := waiting ((State.resetWith Config.cfgB).initDecoder 31 30) [.tick]
    s.inputs = .tick :: [] ∧ s.flag .en = true := by decide
/-- A commit each way, a `QINIT` and a reset, each changing the count. -/
theorem witness_CountChangesOnlyAtCommitOrInit :
    [decoderAt .cw3 5 0 [.tick], decoderAt .ccw3 5 0 [.tick], decoderAt .cw3 5 0 [.cmd 0x20000302], decoderAt .cw3 5 0 [.rst]].all
      (fun s => goesOn (step s) && (after (step s)).readCsr .tc != s.readCsr .tc) = true := by decide
theorem witness_PathsMeetOnlyAtStart :
    goesOn (step (decoderAt .cw2 0 8 [.tick])) = true ∧ (decoderAt .cw2 0 8 []).qs.onCw = true ∧
    goesOn (step (decoderAt .ccw2 0 4 [.tick])) = true ∧ (decoderAt .ccw2 0 4 []).qs.onCcw = true := by decide
/-- A rotation with a bounce, and a mirrored one. -/
theorem witness_CommitNeedsTheFullRotation :
    (StaysOffStart .start [(true, false), (true, true), (true, false), (true, true), (false, true)] ∧
      (qnext (decoderRun .start [(true, false), (true, true), (true, false), (true, true), (false, true)]) false false).2 = some .cw) ∧
    (StaysOffStart .start [(false, true), (true, true), (true, false)] ∧
      (qnext (decoderRun .start [(false, true), (true, true), (true, false)]) false false).2 = some .ccw) := by
  unfold StaysOffStart; decide
/-- The clockwise turn: pin 2 alone, both pins, pin 3 alone, neither. -/
def turn : List Input := [.pins 4, .tick, .pins 12, .tick, .pins 8, .tick, .pins 0, .tick]
theorem witness_CommitNeedsFourTicks :
    (∀ i ∈ turn, i = .tick ∨ ∃ levels, i = .pins levels) ∧ (decoderAt .start 0 0 turn).qs = .start ∧
    core.run turn.length (decoderAt .start 0 0 turn) = .next (after (core.run turn.length (decoderAt .start 0 0 turn))) ∧
    (after (core.run turn.length (decoderAt .start 0 0 turn))).readCsr .tc ≠ (decoderAt .start 0 0 turn).readCsr .tc :=
  ⟨by simp [turn], rfl, rfl, by decide⟩
theorem witness_ExactRotationCommitsOnce :
    let s := decoderAt .start 0 0 (.pins 0 :: .tick :: turn ++ [.tick])
    s.flag .en = true ∧ s.qs = .start ∧ s.pinA.toNat < s.cfg.npin ∧ s.pinB.toNat < s.cfg.npin ∧
    s.inputs = [.pins 0, .tick, .pins 4, .tick, .pins 12, .tick, .pins 8, .tick, .pins 0, .tick] ++ [.tick] ∧
    ShowsPattern s 0 false false ∧ ShowsPattern s 12 true true ∧
    ShowsPattern s 4 (decide (Dir.cw = .cw)) (decide (Dir.cw = .ccw)) ∧
    ShowsPattern s 8 (decide (Dir.cw = .ccw)) (decide (Dir.cw = .cw)) ∧
    ShowsPattern s 8 (decide (Dir.ccw = .cw)) (decide (Dir.ccw = .ccw)) ∧
    ShowsPattern s 4 (decide (Dir.ccw = .ccw)) (decide (Dir.ccw = .cw)) := by
  unfold ShowsPattern; decide
theorem witness_DisabledDecoderIsFrozen :
    (∀ i ∈ turn, i = .tick ∨ ∃ levels, i = .pins levels) ∧
    (waiting .reset (turn ++ [.rst])).inputs = turn ++ [.rst] ∧ (waiting .reset (turn ++ [.rst])).flag .en = false :=
  ⟨by simp [turn], rfl, rfl⟩
/-- One existing pin, and one that does not exist (`NPIN` is 8). -/
theorem witness_OnePinNeverLeavesStart :
    let s := waiting (State.reset.initDecoder 7 7) turn
    let u := waiting ((State.resetWith Config.cfgB).initDecoder 31 31) turn
    (∀ i ∈ turn, i = .tick ∨ ∃ levels, i = .pins levels) ∧ s.inputs = turn ++ [] ∧ s.pinA = s.pinB ∧ s.qs = .start ∧
    u.inputs = turn ++ [] ∧ u.pinA = u.pinB ∧ u.qs = .start := ⟨by simp [turn], by decide⟩
/-- Each kind of event comes out of a step. -/
theorem witness_EventsComeOnlyFromTheirSources :
    (after (step (decoderAt .cw3 0 0 [.tick]))).evtCwO = true ∧ (after (step (decoderAt .ccw3 0 0 [.tick]))).evtCcwO = true ∧
    (after (step (waiting (sounding 1) [.cmd 0x12000000]))).loadO = true ∧
    Event.timerSilence ∈ (after (step (waiting (sounding 0) [.cmd 0x12000000]))).events := by decide
theorem witness_ResetStepSetsTheResetValues : (waiting built [.rst, .tick]).inputs = .rst :: [.tick] := by decide
theorem witness_ResetStepKeepsTheInputs :
    (waiting (decoderAt .cw1 5 12 []) [.rst, .tick]).inputs = .rst :: [.tick] := rfl
theorem witness_EveryStepKeepsTheInvariant :
    Inv built ∧ step built = .next (after (step built)) ∧ goesOn (step built) = true := ⟨inv_built, rfl, by decide⟩
theorem witness_StickyBitsFallOnlyAtReset :
    let s := { waiting built [.cmd 0x20000302] with ill := true, qi := true, cbCw := ⟨true, 1⟩, cbCcw := ⟨true, 2⟩ }
    goesOn (step s) = true ∧ (∀ rest, s.inputs ≠ .rst :: rest) ∧ s.flag .tv = true ∧ s.flag .qi = true ∧ s.flag .ill = true ∧
    (s.slot .cw).valid = true ∧ (s.slot .ccw).valid = true :=
  ⟨by decide, (fun _ h => by cases h), by decide⟩
/-- A register write and a table write. -/
theorem witness_OnlyTheirCommandsWriteRegistersAndTable :
    (after (exec (.nres .x1 3 4) built)).readX .x1 ≠ built.readX .x1 ∧
    Memory.read (after (exec (.ftbuild .x0) marked)).ft 95 ≠ Memory.read marked.ft 95 := by decide
/-- Each writer changing what is its own: `FTBUILD`, `PCALC`, `QINIT`, `QATT`, `QEN`, `QDIS`, an illegal word and a tick. -/
theorem witness_OnlyTheirWritersChangeControlRegisters :
    (after (step (waiting marked [.cmd 0x10000000]))).readCsr .refpitch ≠ marked.readCsr .refpitch ∧
    (after (step (waiting marked [.cmd 0x10000000]))).flag .tv ≠ marked.flag .tv ∧
    (after (step (waiting marked [.cmd 0x12000000]))).readCsr .period ≠ marked.readCsr .period ∧
    (after (step (waiting marked [.cmd 0x20000302]))).readCsr .pinsel ≠ marked.readCsr .pinsel ∧
    (after (step (waiting marked [.cmd 0x2110BEEF]))).slot .ccw ≠ marked.slot .ccw ∧
    (after (step (waiting marked [.cmd 0x22000000]))).flag .en ≠ marked.flag .en ∧
    (after (step (decoderAt .cw2 0 0 [.cmd 0x23000000]))).flag .en ≠ (decoderAt .cw2 0 0 []).flag .en ∧
    (after (step (waiting marked [.cmd 0x05000000]))).flag .ill ≠ marked.flag .ill ∧
    (after (step (decoderAt .ccw3 0 0 [.tick]))).readCsr .dir ≠ (decoderAt .ccw3 0 0 []).readCsr .dir ∧
    (after (step (decoderAt .start 0 4 [.tick]))).readCsr .qstate ≠ (decoderAt .start 0 4 []).readCsr .qstate :=
  ⟨by decide, by decide, by decide, by decide, by decide, by decide, by decide, by decide, by decide, by decide⟩
/-- A note of a built table where only `x0` is known, a tick of an enabled decoder on pins that exist, and `LDL` of a known
register; the second state differs in an unknown register and in the counter. -/
theorem witness_ContractUsesNoFreeValue :
    (Inv (waiting built [.cmd 0x11400304]) ∧ InputInContract (waiting built [.cmd 0x11400304]) [.x0] (.cmd 0x11400304) ∧
      AgreeOn [.x0] (waiting built [.cmd 0x11400304])
        { waiting built [.cmd 0x11400304] with x := ⟨0x01B80000, 1, 2, 3⟩, free := 7 }) ∧
    (Inv (decoderAt .cw3 0 0 [.tick]) ∧ InputInContract (decoderAt .cw3 0 0 [.tick]) [] .tick) ∧
    InputInContract built [.x0] (.cmd 0x02008000) := by
  refine ⟨⟨⟨inv_built.legal, inv_built.table, inv_built.pitch, inv_built.period, inv_built.duty⟩, ?_, ?_, rfl⟩, ⟨?_, ?_⟩, ?_⟩
  · intro i h
    have h' : decode 0x11400304 = .ok (.nres .x1 3 4) := by decide
    rw [h'] at h
    cases h
    intro note hn
    have h'' : noteOfFields 3 4 = some (.tone 3 4) := by decide
    rw [h''] at hn
    cases hn
    exact ⟨rfl, by decide⟩
  · decide
  · exact ⟨by decide, by decide, ⟨by decide, by decide⟩, by decide, by decide⟩
  · unfold InputInContract; decide
  · intro i h
    have h' : decode 0x02008000 = .ok (.ldl .x0 0x8000) := by decide
    rw [h'] at h
    cases h
    exact List.mem_singleton.2 rfl

end Sys2Proof.Tests
end

/-! SUPPORT. Proofs about the state of the block: the parameters every step keeps, the fields of the configuration
registers, the ratio ROM and the reset values (spec/10_state.md R37, R42, R45). -/
namespace Sys2Proof.Machine

/-! ## The parameters never change -/

@[simp] theorem State.tickStep_cfg (s : State) : s.tickStep.cfg = s.cfg := by
  rcases State.tickStep_cases s with ⟨_, h⟩ | ⟨_, _, _, h⟩ | ⟨_, _, _, _, h⟩ <;> simp [h]

@[simp] theorem State.resetStep_cfg (s : State) : s.resetStep.cfg = s.cfg := rfl

/-- No command changes the parameters: none of the operations a command is made of writes them. -/
theorem exec_keeps_cfg {i : Instr} {s t : State} (h : exec i s = .next t) : t.cfg = s.cfg := by
  rcases exec_cases h with ⟨_, rfl, _⟩ | ⟨_, _, rfl, _⟩ | ⟨rfl, _⟩ | ⟨_, _, rfl⟩ | ⟨_, _, _, _, _, _, _, _, _, _, rfl⟩ |
    ⟨_, _, _, rfl⟩ | ⟨_, _, _, _, _, rfl⟩ | ⟨_, _, _, rfl⟩ | ⟨_, _, _, rfl⟩ | ⟨_, rfl⟩ | ⟨_, rfl⟩ <;> simp

/-- No step changes the parameters (notes/assumptions/1.md). -/
theorem step_keeps_cfg {s t : State} (h : step s = .next t) : t.cfg = s.cfg := by
  rcases step_cases s with ⟨_, hs⟩ | ⟨_, _, hs⟩ | ⟨_, _, hs⟩ | ⟨_, _, _, hs⟩ | ⟨_, _, _, _, _, hs⟩ |
    ⟨_, _, _, _, _, hexec⟩
  iterate 5 · rw [hs] at h; cases h; simp
  · exact (exec_keeps_cfg (hexec.symm.trans h) :)

/-- The configuration registers are views of the parameters alone (R37). -/
theorem State.readCsr_config_of_cfg_eq {s t : State} (h : t.cfg = s.cfg) {c : Csr}
    (hc : c ∈ [Csr.cfgclk, .cfgpresc, .cfgpmin, .cfgpmax, .cfgtbl, .cfgmisc]) :
    t.readCsr c = s.readCsr c := by
  simp only [List.mem_cons, List.not_mem_nil, or_false] at hc
  rcases hc with rfl | rfl | rfl | rfl | rfl | rfl <;> simp only [State.readCsr, h]

/-! ## The fields of the configuration registers -/

/-- Concatenated fields as a number: the upper one counts in multiples of the lower one's range. -/
theorem toNat_append_eq_mul_add {m n : Nat} (x : BitVec m) (y : BitVec n) :
    (x ++ y).toNat = x.toNat * 2 ^ n + y.toNat := by
  rw [BitVec.toNat_append, ← Nat.shiftLeft_add_eq_or_of_lt y.isLt, Nat.shiftLeft_eq]

theorem dirBit_toNat (d : Dir) : (dirBit d).toNat = if d = .cw then 0 else 1 := by
  cases d <;> rfl

/-- A number below `2 ^ n` comes back out of its `n`-bit field. -/
theorem toNat_ofNat_of_lt {n a : Nat} (h : a < 2 ^ n) : (BitVec.ofNat n a).toNat = a := by
  rw [BitVec.toNat_ofNat, Nat.mod_eq_of_lt h]

section ConfigRegisters
variable {s : State}

theorem State.readCsr_cfgclk_toNat (h : s.cfg.legal) : (s.readCsr .cfgclk).toNat = s.cfg.fClk := by
  obtain ⟨_, _, _, ⟨_, hclk⟩, _⟩ := h
  exact toNat_ofNat_of_lt (by omega)

theorem State.readCsr_cfgpresc_toNat (h : s.cfg.legal) : (s.readCsr .cfgpresc).toNat = s.cfg.presc := by
  obtain ⟨_, _, _, _, ⟨_, hpresc⟩, _⟩ := h
  have hfield := toNat_ofNat_of_lt (n := 16) (a := s.cfg.presc) (by omega)
  simp only [State.readCsr, toNat_append_eq_mul_add, hfield, BitVec.toNat_ofNat]
  omega

theorem State.readCsr_cfgpmin_toNat (h : s.cfg.legal) : (s.readCsr .cfgpmin).toNat = s.cfg.perMin := by
  obtain ⟨_, _, _, _, _, ⟨hmin, hmax⟩, _⟩ := h
  exact toNat_ofNat_of_lt (by omega)

theorem State.readCsr_cfgpmax_toNat (h : s.cfg.legal) : (s.readCsr .cfgpmax).toNat = s.cfg.perMax := by
  obtain ⟨_, _, _, _, _, ⟨_, hmax⟩, _⟩ := h
  exact toNat_ofNat_of_lt (by omega)

/-- `FIRST_OCT` stands in its field in two's complement, which is its remainder modulo `2 ^ 8`. -/
theorem State.readCsr_cfgtbl_toNat (h : s.cfg.legal) :
    ((s.readCsr .cfgtbl).toNat : Int) =
      s.cfg.nOct + 2 ^ 8 * (s.cfg.firstOct % 2 ^ 8) + 2 ^ 16 * s.cfg.octShift := by
  obtain ⟨⟨_, hoct⟩, _, hshift, _⟩ := h
  have hOctField := toNat_ofNat_of_lt (n := 5) (a := s.cfg.nOct) (by omega)
  have hShiftField := toNat_ofNat_of_lt (n := 4) (a := s.cfg.octShift) (by omega)
  simp only [State.readCsr, toNat_append_eq_mul_add, hOctField, hShiftField, BitVec.toNat_ofInt, BitVec.toNat_ofNat]
  omega

theorem State.readCsr_cfgmisc_toNat (h : s.cfg.legal) :
    (s.readCsr .cfgmisc).toNat = (if s.cfg.dirReset = .cw then 0 else 1) + 2 ^ 8 * s.cfg.npin := by
  obtain ⟨_, _, _, _, _, _, ⟨_, hpin⟩⟩ := h
  have hfield := toNat_ofNat_of_lt (n := 6) (a := s.cfg.npin) (by omega)
  simp only [State.readCsr, toNat_append_eq_mul_add, dirBit_toNat, hfield, BitVec.toNat_ofNat]
  omega

end ConfigRegisters

/-- Settles O21: the fields register by register, and every step keeps the parameters the registers are views of. -/
theorem configurationRegistersAreTheParameters : Obligations.ConfigurationRegistersAreTheParameters :=
  ⟨fun _ h => ⟨State.readCsr_cfgclk_toNat h, State.readCsr_cfgpresc_toNat h, State.readCsr_cfgpmin_toNat h,
      State.readCsr_cfgpmax_toNat h, State.readCsr_cfgtbl_toNat h, State.readCsr_cfgmisc_toNat h⟩,
    fun _ _ hstep _ hc => State.readCsr_config_of_cfg_eq (step_keeps_cfg hstep) hc⟩

/-! ## The ratio ROM -/

/-- The rounding of R42 in integers: a ratio `2 ^ (s / 12) * 2 ^ 30` is within one half of `r` when the twelfth power of its
double lies between those of `2 * r - 1` and `2 * r + 1`. -/
theorem abs_sub_ratio_lt_half {r s : Nat} (hr : 1 ≤ r) (hlo : (2 * r - 1) ^ 12 < 2 ^ s * (2 ^ 31) ^ 12)
    (hhi : 2 ^ s * (2 ^ 31) ^ 12 < (2 * r + 1) ^ 12) :
    |(r : ℝ) - (2 : ℝ) ^ ((s : ℝ) / 12) * 2 ^ 30| < 1 / 2 := by
  set y : ℝ := (2 : ℝ) ^ ((s : ℝ) / 12) with hy
  have hy0 : 0 ≤ y := by positivity
  have hroot : y ^ 12 = 2 ^ s := by
    have hpow := Real.rpow_mul_natCast (zero_le_two (α := ℝ)) ((s : ℝ) / 12) 12
    rw [hy, ← hpow, ← Real.rpow_natCast]
    congr 1
    push_cast
    ring
  have hdouble : (y * 2 ^ 31) ^ 12 = ((2 ^ s * (2 ^ 31) ^ 12 : Nat) : ℝ) := by
    rw [mul_pow, hroot]; norm_cast
  have hbelow : ((2 * r - 1 : Nat) : ℝ) < y * 2 ^ 31 :=
    lt_of_pow_lt_pow_left₀ 12 (by positivity) (by rw [hdouble]; exact_mod_cast hlo)
  have habove : y * 2 ^ 31 < ((2 * r + 1 : Nat) : ℝ) :=
    lt_of_pow_lt_pow_left₀ 12 (by positivity) (by rw [hdouble]; exact_mod_cast hhi)
  rw [Nat.cast_sub (by omega)] at hbelow
  push_cast at hbelow habove
  rw [abs_lt]
  constructor <;> linarith

/-- Every ROM entry brackets its ratio as `abs_sub_ratio_lt_half` asks. -/
theorem rom_brackets_ratio : ∀ s < 12, 1 ≤ rom s ∧ (2 * rom s - 1) ^ 12 < 2 ^ s * (2 ^ 31) ^ 12 ∧
    2 ^ s * (2 ^ 31) ^ 12 < (2 * rom s + 1) ^ 12 := by decide

/-- Settles O26: the twelfth powers of the entries bracket those of the ratios. -/
theorem romEntriesAreTheRoundedRatios : Obligations.RomEntriesAreTheRoundedRatios := by
  intro s hs
  obtain ⟨hpos, hlo, hhi⟩ := rom_brackets_ratio s hs
  exact abs_sub_ratio_lt_half hpos hlo hhi

/-! ## The reset values -/

/-- A step that takes a reset off the inputs. -/
theorem step_rst {s : State} {rest : List Input} (h : s.inputs = .rst :: rest) :
    step s = .next { s with inputs := rest }.resetStep := by
  simp only [step, takeInput, h, inputStep]

theorem State.readCsr_resetWith_status (p : Params) : (State.resetWith p).readCsr .status = 0x00000008 := by
  simp only [State.readCsr, State.statusWord, State.resetWith]; decide

/-- The control registers that R45 resets to 0. -/
theorem State.readCsr_resetWith_eq_zero (p : Params) {c : Csr}
    (hc : c ∈ [Csr.refpitch, .period, .duty, .tc, .qstate, .pinsel, .cbcw, .cbccw]) :
    (State.resetWith p).readCsr c = 0 := by
  simp only [List.mem_cons, List.not_mem_nil, or_false] at hc
  rcases hc with rfl | rfl | rfl | rfl | rfl | rfl | rfl | rfl <;>
    simp [State.readCsr, State.resetWith, QState.code, Slot.word]

/-- The control registers after a reset step are those of the block right after reset: what the step leaves to chance
(R302) and what it keeps (R43) are not among them. -/
theorem State.readCsr_resetStep (s : State) (c : Csr) : s.resetStep.readCsr c = (State.resetWith s.cfg).readCsr c := by
  cases c <;> rfl

@[simp] theorem State.resetStep_dir (s : State) : s.resetStep.dir = s.cfg.dirReset := rfl

@[simp] theorem State.resetStep_events (s : State) : s.resetStep.events = [] := rfl

/-- A step without an event drives the three event lines to 0. -/
theorem State.eventLines_of_no_event {s : State} (h : s.events = []) :
    s.evtCwO = false ∧ s.evtCcwO = false ∧ s.loadO = false := by
  simp only [State.evtCwO, State.evtCcwO, State.loadO, h, List.any_nil, and_self]

/-- Settles O52: the reset step's control registers are those of R45's table, and it emits no event. -/
theorem resetStepSetsTheResetValues : Obligations.ResetStepSetsTheResetValues := by
  intro s rest hin
  refine ⟨_, step_rst hin, ?_, ?_, State.resetStep_dir _, State.resetStep_cfg _, State.resetStep_events _,
    State.eventLines_of_no_event (State.resetStep_events _)⟩
  · rw [State.readCsr_resetStep, State.readCsr_resetWith_status]
  · intro c hc
    rw [State.readCsr_resetStep, State.readCsr_resetWith_eq_zero _ hc]

end Sys2Proof.Machine

/-! SUPPORT. Proofs about the encoding: which words the decoder refuses and by which name, what the step of an illegal word
does, that `ILL` is sticky, and the response of a command step (spec/30_encoding.md R83, R86 to R88, R92). -/
namespace Sys2Proof.Machine

/-! ## The words the decoder refuses -/

theorem rowOf_eq_none_iff {w : Word} : rowOf w = none ↔ ∀ r ∈ opcodeMap, w &&& r.mask ≠ r.pattern := by
  simp [rowOf]

/-- A word without an assigned opcode has no row's form, since a form fixes the opcode. -/
theorem decode_of_unassigned {w : Word} (h : ∀ r ∈ opcodeMap, opField w ≠ opField r.pattern) :
    decode w = .error .unassignedOpcode := by
  have hrow : rowOf w = none := rowOf_eq_none_iff.2 fun r hr hform => h r hr (opField_of_form hr hform)
  have hany : opcodeMap.any (fun r => opField w == opField r.pattern) = false := by simpa using h
  simp [decode, hrow, hany]

/-- A word with a row's opcode but not its form has no other row's form either: that row would have the same opcode. -/
theorem decode_of_mustBeZero {w : Word} {r : OpRow} (hr : r ∈ opcodeMap) (hop : opField w = opField r.pattern)
    (hform : w &&& r.mask ≠ r.pattern) : decode w = .error .mustBeZero := by
  have hrow : rowOf w = none := by
    refine rowOf_eq_none_iff.2 fun r' hr' hform' => hform ?_
    have hsame : r' = r := row_of_opField r' hr' r hr ((opField_of_form hr' hform').symm.trans hop)
    exact hsame ▸ hform'
  have hany : opcodeMap.any (fun r => opField w == opField r.pattern) = true :=
    List.any_eq_true.2 ⟨r, hr, beq_iff_eq.2 hop⟩
  simp [decode, hrow, hany]

/-- A word of a row's form whose command fails a value check is refused with that check's name. -/
theorem decode_of_illFormed {w : Word} {r : OpRow} {why : IllFormed} (hr : r ∈ opcodeMap)
    (hform : w &&& r.mask = r.pattern) (hwhy : (fieldsOf r.op w).illFormed? = some why) :
    decode w = .error (.illFormed why) := by
  rw [decode_of_form hr hform, hwhy]

/-- The assigned opcodes lie outside the reserved ranges of R88. -/
theorem assigned_opcode_ranges : ∀ r ∈ opcodeMap, (opField r.pattern).toNat ≤ 0x04 ∨
    (0x10 ≤ (opField r.pattern).toNat ∧ (opField r.pattern).toNat ≤ 0x12) ∨
    (0x20 ≤ (opField r.pattern).toNat ∧ (opField r.pattern).toNat ≤ 0x23) := by decide

theorem decode_of_reserved_opcode {w : Word}
    (h : (0x05 ≤ (opField w).toNat ∧ (opField w).toNat ≤ 0x0F) ∨
      (0x13 ≤ (opField w).toNat ∧ (opField w).toNat ≤ 0x1F) ∨ 0x24 ≤ (opField w).toNat) :
    decode w = .error .unassignedOpcode := by
  refine decode_of_unassigned fun r hr hop => ?_
  have hassigned := assigned_opcode_ranges r hr
  rw [← hop] at hassigned
  omega

/-- An `RDCSR` word with an unassigned number. -/
theorem decode_of_unassigned_csr {w : Word} (hform : w &&& 0xFF3FFF00#32 = 0x04000000#32)
    (h : ¬ ((w.extractLsb' 0 8).toNat ≤ 0x09 ∨
      (0x10 ≤ (w.extractLsb' 0 8).toNat ∧ (w.extractLsb' 0 8).toNat ≤ 0x15))) :
    decode w = .error (.illFormed .unassignedCsr) := by
  refine decode_of_illFormed (r := ⟨.rdcsr, 0x04000000#32, 0xFF3FFF00#32⟩) (by decide) hform ?_
  rw [← csrOfNumber_isSome_iff] at h
  exact if_neg h

/-- An `NRES` word with a reserved note. -/
theorem decode_of_reserved_note {w : Word} (hform : w &&& 0xFF3FF000#32 = 0x11000000#32)
    (h : noteOfFields (w.extractLsb' 8 4) (w.extractLsb' 0 8) = none) :
    decode w = .error (.illFormed .reservedNote) := by
  refine decode_of_illFormed (r := ⟨.nres, 0x11000000#32, 0xFF3FF000#32⟩) (by decide) hform ?_
  simp [fieldsOf, Instr.illFormed?, h]

/-- Each of the four kinds of illegal word (R87) is refused. -/
theorem decode_of_illegalWord {w : Word} (h : IllegalWord w) : ∃ e, decode w = .error e := by
  rcases h with hop | ⟨r, hr, hop, hform⟩ | ⟨hform, hcsr⟩ | ⟨hform, hnote⟩
  · exact ⟨_, decode_of_unassigned hop⟩
  · exact ⟨_, decode_of_mustBeZero hr hop hform⟩
  · exact ⟨_, decode_of_unassigned_csr hform hcsr⟩
  · refine ⟨_, decode_of_reserved_note hform ((noteOfFields_eq_none_iff _ _).2 ⟨by omega, fun h15 => ?_⟩)⟩
    rcases hnote with h' | h' | h' | ⟨_, hoct⟩
    iterate 3 · omega
    · exact hoct

/-- Settles O4: a word with a row's opcode has that row's form or none. -/
theorem mustBeZeroBitMakesTheWordIllegal : Obligations.MustBeZeroBitMakesTheWordIllegal :=
  fun _ _ hr hop hform => decode_of_mustBeZero hr hop hform

/-- Settles O5: the reserved ranges hold no row's opcode; the all-one word lies in the last of them. -/
theorem reservedOpcodesAreIllegal : Obligations.ReservedOpcodesAreIllegal :=
  ⟨fun _ h => decode_of_reserved_opcode h, by decide, decode_of_reserved_opcode (by decide)⟩

/-! ## The step of an illegal word -/

/-- A step that takes a word the decoder refuses off the inputs. -/
theorem step_illegal {s : State} {w : Word} {rest : List Input} {e : DecodeError} (h : s.inputs = .cmd w :: rest)
    (hd : decode w = .error e) : step s = .next { s with inputs := rest }.illegalCommand := by
  simp only [step, takeInput, h, inputStep, commandStep, hd]

theorem State.flag_illegalCommand_other (s : State) {f : Flag} (hf : f ≠ .ill) :
    s.illegalCommand.flag f = s.flag f := by
  cases f with
  | ill => exact absurd rfl hf
  | _ => rfl

/-- Of the control registers only `STATUS` shows `ILL`. -/
theorem State.readCsr_illegalCommand (s : State) {c : Csr} (hc : c ≠ .status) :
    s.illegalCommand.readCsr c = s.readCsr c := by
  cases c with
  | status => exact absurd rfl hc
  | _ => rfl

/-- The frame of R87's "nothing else changes". -/
theorem State.unchangedBut_illegalCommand (s : State) : UnchangedBut [] [.ill] [] s s.illegalCommand :=
  ⟨fun r _ => s.readX_illegalCommand r,
   fun _ hf => s.flag_illegalCommand_other (by simpa using hf),
   fun _ hc _ => s.readCsr_illegalCommand hc,
   s.illegalCommand_cfg, s.illegalCommand_din, s.illegalCommand_inputs⟩

/-! ## `ILL` is sticky -/

@[simp] theorem State.tickStep_ill (s : State) : s.tickStep.ill = s.ill := by
  rcases State.tickStep_cases s with ⟨_, h⟩ | ⟨_, _, _, h⟩ | ⟨_, _, _, _, h⟩ <;> simp [h]

/-- No command clears `ILL`: an illegal one sets it and no other operation writes it (R28). -/
theorem exec_keeps_ill {i : Instr} {s t : State} (h : exec i s = .next t) (hill : s.ill = true) : t.ill = true := by
  rcases exec_cases h with ⟨_, rfl, _⟩ | ⟨_, _, rfl, _⟩ | ⟨rfl, _⟩ | ⟨_, _, rfl⟩ | ⟨_, _, _, _, _, _, _, _, _, _, rfl⟩ |
    ⟨_, _, _, rfl⟩ | ⟨_, _, _, _, _, rfl⟩ | ⟨_, _, _, rfl⟩ | ⟨_, _, _, rfl⟩ | ⟨_, rfl⟩ | ⟨_, rfl⟩ <;> simp [hill]

/-- `ILL` stays 1 in every step but a reset (R28, R87). -/
theorem step_keeps_ill {s t : State} (h : step s = .next t) (hrst : ∀ rest, s.inputs ≠ .rst :: rest)
    (hill : s.ill = true) : t.ill = true := by
  rcases step_cases s with ⟨_, hs⟩ | ⟨rest, hin, _⟩ | ⟨_, _, hs⟩ | ⟨_, _, _, hs⟩ | ⟨_, _, _, _, _, hs⟩ |
    ⟨_, _, _, _, _, hexec⟩
  case inr.inl => exact absurd hin (hrst rest)
  case inr.inr.inr.inr.inr => exact exec_keeps_ill (hexec.symm.trans h) hill
  all_goals rw [hs] at h; cases h; simp [hill]

/-- Settles O9: an illegal word is refused, so its step is the illegal command at the state without that input. -/
theorem illegalWordOnlySetsIll : Obligations.IllegalWordOnlySetsIll := by
  intro s w rest hin hw
  obtain ⟨e, hd⟩ := decode_of_illegalWord hw
  exact ⟨_, step_illegal hin hd, State.illegalCommand_ill _, ⟨rfl, rfl, rfl⟩, State.unchangedBut_illegalCommand _,
    fun _ => rfl, fun u hu hrst => step_keeps_ill hu hrst (State.illegalCommand_ill _)⟩

/-! ## The response of a command step -/

/-- Every command but `RDX` that completes responds with 0, an ill-formed one too. -/
theorem exec_rsp_of_not_rdx {i : Instr} {s t : State} (h : exec i s = .next t) (hi : ∀ rs, i ≠ .rdx rs) :
    t.rsp = some 0 := by
  rcases exec_cases h with ⟨_, _, rfl | ⟨rs, rfl, _⟩⟩ | ⟨_, _, rfl, _⟩ | ⟨rfl, _⟩ | ⟨_, _, rfl⟩ |
    ⟨_, _, _, _, _, _, _, _, _, _, rfl⟩ | ⟨_, _, _, rfl⟩ | ⟨_, _, _, _, _, rfl⟩ | ⟨_, _, _, rfl⟩ | ⟨_, _, _, rfl⟩ |
    ⟨_, rfl⟩ | ⟨_, rfl⟩
  · rw [exec_nop] at h
    cases h
    rfl
  · exact absurd rfl (hi rs)
  all_goals rfl

/-- Settles O13: the step of a word is its command's, or the illegal command, whose response is 0. -/
theorem onlyRdxRespondsWithAValue : Obligations.OnlyRdxRespondsWithAValue := by
  intro s t w rest hin hstep
  refine ⟨fun rs hd => ?_, fun hne => ?_⟩
  · rw [step_cmd hin hd, exec_rdx] at hstep
    cases hstep
    cases rs <;> rfl
  · cases hd : decode w with
    | error e =>
      rw [step_illegal hin hd] at hstep
      cases hstep
      rfl
    | ok i =>
      rw [step_cmd hin hd] at hstep
      exact exec_rsp_of_not_rdx hstep fun rs hi => hne rs (hi ▸ hd)

end Sys2Proof.Machine

/-! SUPPORT. Proofs about the access commands: the frame of the response and of a register write, the halves that `LDH` and
`LDL` load, and the numbers `RDCSR` accepts (spec/40_access.md R110 to R114). -/
namespace Sys2Proof.Machine

/-! ## What a response and a register write leave unchanged -/

theorem UnchangedBut.refl (s : State) : UnchangedBut [] [] [] s s :=
  ⟨fun _ _ => rfl, fun _ _ => rfl, fun _ _ _ => rfl, rfl, rfl, rfl⟩

/-- The outputs of a command step are none of what `UnchangedBut` speaks of. -/
theorem UnchangedBut.respond {regs : List Reg} {flags : List Flag} {csrs : List Csr} {s t : State}
    (h : UnchangedBut regs flags csrs s t) (w : Word) (es : List Event) :
    UnchangedBut regs flags csrs s (t.respond w es) := by
  obtain ⟨hx, hflag, hcsr, hcfg, hdin, hinputs⟩ := h
  refine ⟨fun r hr => ?_, fun f hf => ?_, fun c hc hc' => ?_, hcfg, hdin, hinputs⟩
  · rw [State.readX_respond, hx r hr]
  · rw [State.flag_respond, hflag f hf]
  · rw [State.readCsr_respond, hcsr c hc hc']

theorem State.unchangedBut_writeX (s : State) (r : Reg) (v : Word) : UnchangedBut [r] [] [] s (s.writeX r v) :=
  ⟨fun _ hr => s.readX_writeX_other (List.ne_of_not_mem_cons hr) v, fun f _ => s.flag_writeX r v f,
    fun c _ _ => s.readCsr_writeX r v c, rfl, rfl, rfl⟩

/-- A command that only responds. -/
theorem State.respond_effect (s : State) (w : Word) :
    Responds w [] s (s.respond w []) ∧ UnchangedBut [] [] [] s (s.respond w []) ∧ SameTable s (s.respond w []) :=
  ⟨⟨rfl, rfl, rfl⟩, (UnchangedBut.refl s).respond w [], fun _ => rfl⟩

/-- A command that writes one general register and responds 0. -/
theorem State.writeX_respond_effect (s : State) (r : Reg) (v : Word) :
    ((s.writeX r v).respond 0 []).readX r = v ∧ Responds 0 [] s ((s.writeX r v).respond 0 []) ∧
      UnchangedBut [r] [] [] s ((s.writeX r v).respond 0 []) ∧ SameTable s ((s.writeX r v).respond 0 []) :=
  ⟨by rw [State.readX_respond, State.readX_writeX_same], ⟨rfl, rfl, rfl⟩, (s.unchangedBut_writeX r v).respond 0 [],
    fun _ => rfl⟩

/-! ## `NOP` and `RDX` -/

/-- `NOP` is the one word of its opcode: every other bit of its format must be zero. -/
theorem decode_of_nop_opcode {w : Word} (hop : opField w = 0) (hw : w ≠ 0) : decode w = .error .mustBeZero := by
  refine decode_of_mustBeZero (rowFor_mem .nop) hop fun hform => hw ?_
  calc w = w &&& (rowFor .nop).mask := BitVec.and_allOnes.symm
    _ = 0 := hform

/-- Settles O14: `NOP` only responds, and a non-zero word with its opcode is not of its form. -/
theorem nopChangesNothing : Obligations.NopChangesNothing :=
  ⟨fun s => ⟨_, exec_nop s, s.respond_effect 0⟩, fun _ hop hw => decode_of_nop_opcode hop hw⟩

/-- Settles O17: `RDX` only responds. -/
theorem rdxReturnsTheRegister : Obligations.RdxReturnsTheRegister :=
  fun rs s => ⟨_, exec_rdx rs s, s.respond_effect (s.readX rs)⟩

/-! ## `LDH` and `LDL` -/

/-- The upper half of a word as a number. -/
theorem toNat_extractLsb'_high_half (v : Word) : (v.extractLsb' 16 16).toNat = v.toNat / 2 ^ 16 := by
  have hv := v.isLt
  rw [BitVec.extractLsb'_toNat, Nat.shiftRight_eq_div_pow, Nat.mod_eq_of_lt (by omega)]

/-- Settles O15: the word `LDH` writes is the immediate above a zero half. -/
theorem ldhLoadsTheHighHalf : Obligations.LdhLoadsTheHighHalf := by
  intro rd imm s
  obtain ⟨hread, hrest⟩ := s.writeX_respond_effect rd (imm ++ 0#16)
  refine ⟨_, exec_ldh rd imm s, ?_, hrest⟩
  rw [hread, toNat_append_eq_mul_add, BitVec.toNat_zero, Nat.add_zero]

/-- Settles O16: the word `LDL` writes is the old upper half above the immediate. -/
theorem ldlKeepsTheHighHalf : Obligations.LdlKeepsTheHighHalf := by
  intro rd imm s
  obtain ⟨hread, hrest⟩ := s.writeX_respond_effect rd ((s.readX rd).extractLsb' 16 16 ++ imm)
  refine ⟨_, exec_ldl rd imm s, ?_, hrest⟩
  rw [hread, toNat_append_eq_mul_add, toNat_extractLsb'_high_half]

/-! ## `RDCSR` -/

theorem exec_rdcsr_of_assigned {n : BitVec 8} {c : Csr} (h : csrOfNumber n = some c) (rd : Reg) (s : State) :
    exec (.rdcsr rd n) s = .next ((s.writeX rd (s.readCsr c)).respond 0 []) := by
  rcases exec_rdcsr_cases rd n s with ⟨c', hc', hexec⟩ | ⟨hnone, _⟩
  · cases hc'.symm.trans h
    exact hexec
  · cases hnone.symm.trans h

theorem exec_rdcsr_of_unassigned {n : BitVec 8} (h : csrOfNumber n = none) (rd : Reg) (s : State) :
    exec (.rdcsr rd n) s = .next s.illegalCommand := by
  rcases exec_rdcsr_cases rd n s with ⟨_, hsome, _⟩ | ⟨_, hexec⟩
  · cases hsome.symm.trans h
  · exact hexec

/-- The numbers outside the two ranges of R39 name no control register. -/
theorem csrOfNumber_eq_none {n : BitVec 8} (h : ¬ (n.toNat ≤ 0x09 ∨ (0x10 ≤ n.toNat ∧ n.toNat ≤ 0x15))) :
    csrOfNumber n = none := by
  rw [← csrOfNumber_isSome_iff] at h
  exact Option.not_isSome_iff_eq_none.1 h

/-- Settles O18: an assigned number is the one of its control register, every other number is refused by the illegal
command. -/
theorem rdcsrCopiesAssignedRegisters : Obligations.RdcsrCopiesAssignedRegisters := by
  intro rd s
  refine ⟨fun a ha => ?_, fun n hn => ?_⟩
  · have hassigned : csrOfNumber a.1 = some a.2 := by revert a; decide
    exact ⟨_, exec_rdcsr_of_assigned hassigned rd s, s.writeX_respond_effect rd (s.readCsr a.2)⟩
  · exact ⟨_, exec_rdcsr_of_unassigned (csrOfNumber_eq_none hn) rd s, State.illegalCommand_ill s, ⟨rfl, rfl, rfl⟩,
      s.unchangedBut_illegalCommand, fun _ => rfl⟩

end Sys2Proof.Machine

/-! SUPPORT. Proofs about the frequency table: what `FTBUILD` stores and leaves unchanged, that a build replaces the whole
table and a second one repeats it, what `NRES` does with each kind of note, and the clamping of octaves
(spec/41_frequency_table.md R133, R135 to R137, R141 to R143). -/
namespace Sys2Proof.Machine

/-! ## Building over an old table -/

/-- Writing words of rising indices wipes out an old memory when every index the old one lists is written. -/
theorem Memory.writeAll_eq_of_covers {m : Memory} {es : List (Nat × Word)} (hm : Memory.wf m) (hes : Memory.wf es)
    (hcover : ∀ k, Memory.read es k = none → Memory.read m k = none) : Memory.writeAll m es = es := by
  refine Memory.ext (Memory.wf_writeAll hm es) hes fun k => ?_
  rw [Memory.read_writeAll m hes]
  cases hk : Memory.read es k with
  | none => rw [hcover k hk, Option.or_none]
  | some v => rw [Option.some_or]

/-- Writing words of rising indices a second time changes nothing. -/
theorem Memory.writeAll_writeAll {m : Memory} {es : List (Nat × Word)} (hm : Memory.wf m) (hes : Memory.wf es) :
    Memory.writeAll (Memory.writeAll m es) es = Memory.writeAll m es := by
  refine Memory.ext (Memory.wf_writeAll (Memory.wf_writeAll hm es) es) (Memory.wf_writeAll hm es) fun k => ?_
  rw [Memory.read_writeAll _ hes, Memory.read_writeAll m hes, ← Option.or_assoc, Option.or_self]

/-- The entries hold a word at every index of the table: `k` is semitone `k % 12` of octave `k / 12`. -/
theorem read_tableEntries_of_lt {p : Params} (ref : Word) {k : Nat} (hk : k < tableSize p) :
    Memory.read (tableEntries p ref) k = some (tableWord p ref (k % 12) (k / 12)) := by
  have hoct : k / 12 < p.nOct := Nat.div_lt_of_lt_mul hk
  have hsemi : k % 12 < 12 := Nat.mod_lt k (by decide)
  calc Memory.read (tableEntries p ref) k
      = Memory.read (tableEntries p ref) (12 * (k / 12) + k % 12) := by rw [Nat.div_add_mod]
    _ = some (tableWord p ref (k % 12) (k / 12)) := read_tableEntries p ref hoct hsemi

theorem tableEntries_length (p : Params) (ref : Word) : (tableEntries p ref).length = 12 * p.nOct := by
  simp [tableEntries, List.length_flatMap, Nat.mul_comm]

/-- A build leaves only the new entries: a canonical old table lists no index outside them (R136). -/
theorem State.buildTable_ft_eq {s : State} (h : TableWf s) (ref : Word) :
    (s.buildTable ref).ft = tableEntries s.cfg ref := by
  obtain ⟨hwf, hindex⟩ := h
  refine Memory.writeAll_eq_of_covers hwf (tableEntries_wf s.cfg ref) fun k hk => ?_
  have hbeyond : tableSize s.cfg ≤ k := by
    by_contra hlt
    rw [read_tableEntries_of_lt ref (Nat.lt_of_not_le hlt)] at hk
    cases hk
  exact Memory.read_eq_none fun e he => (Nat.lt_of_lt_of_le (hindex e he) hbeyond).ne

/-- A second build from the same pitch changes nothing (R137). -/
theorem State.buildTable_buildTable {s : State} (h : Memory.wf s.ft) (ref : Word) :
    (s.buildTable ref).buildTable ref = s.buildTable ref := by
  have hft := Memory.writeAll_writeAll h (tableEntries_wf s.cfg ref)
  simp only [State.buildTable, hft]

/-- The outputs of the step before are none of what a build reads or writes. -/
theorem State.respond_buildTable_respond (s : State) (ref w : Word) (es : List Event) :
    ((s.respond w es).buildTable ref).respond w es = (s.buildTable ref).respond w es := rfl

/-- Settles O24: the new entries cover every index the old table can list. -/
theorem ftbuildReplacesTheWholeTable : Obligations.FtbuildReplacesTheWholeTable := by
  intro rs s h
  have hft := State.buildTable_ft_eq h (s.readX rs)
  exact ⟨_, exec_ftbuild rs s, hft, (congrArg List.length hft).trans (tableEntries_length _ _)⟩

/-- Settles O25: `FTBUILD` keeps its source register, so the second build is from the same pitch. -/
theorem ftbuildIsIdempotent : Obligations.FtbuildIsIdempotent := by
  intro rs s h
  refine ⟨_, exec_ftbuild rs s, ?_⟩
  rw [exec_ftbuild, State.readX_respond, State.readX_buildTable, State.respond_buildTable_respond,
    State.buildTable_buildTable h]

/-! ## What `FTBUILD` stores and leaves unchanged -/

/-- `V` of R133 as the spec writes it: with legal parameters the shift is positive. -/
theorem entryValue_eq {p : Params} (h : p.legal) {o : Nat} (ho : o < p.nOct) (ref : Word) (semitone : Nat) :
    entryValue p ref semitone o =
      (ref.toNat * rom semitone + 2 ^ (29 + p.octShift - o)) / 2 ^ (30 + p.octShift - o) := by
  obtain ⟨⟨_, hoct⟩, _⟩ := h
  have hhalf : 30 + p.octShift - o - 1 = 29 + p.octShift - o := by omega
  simp only [entryValue, hhalf]

theorem State.read_buildTable (s : State) (ref : Word) {o semitone : Nat} (ho : o < s.cfg.nOct) (hs : semitone < 12) :
    Memory.read (s.buildTable ref).ft (12 * o + semitone) = some (tableWord s.cfg ref semitone o) := by
  rw [State.buildTable_ft, Memory.read_writeAll _ (tableEntries_wf _ _), read_tableEntries _ _ ho hs, Option.some_or]

theorem State.read_buildTable_beyond (s : State) (ref : Word) {k : Nat} (hk : tableSize s.cfg ≤ k) :
    Memory.read (s.buildTable ref).ft k = Memory.read s.ft k := by
  rw [State.buildTable_ft, Memory.read_writeAll _ (tableEntries_wf _ _), read_tableEntries_none _ _ hk, Option.none_or]

theorem State.flag_buildTable_other (s : State) (ref : Word) {f : Flag} (hf : f ≠ .tv) :
    (s.buildTable ref).flag f = s.flag f := by
  cases f with
  | tv => exact absurd rfl hf
  | _ => rfl

/-- Of the control registers a build changes `REFPITCH`, and `STATUS` through `TV`. -/
theorem State.readCsr_buildTable_other (s : State) (ref : Word) {c : Csr} (hc : c ≠ .status) (hc' : c ≠ .refpitch) :
    (s.buildTable ref).readCsr c = s.readCsr c := by
  cases c with
  | status => exact absurd rfl hc
  | refpitch => exact absurd rfl hc'
  | _ => rfl

/-- The frame of R135. -/
theorem State.unchangedBut_buildTable (s : State) (ref : Word) :
    UnchangedBut [] [.tv] [.refpitch] s (s.buildTable ref) :=
  ⟨fun r _ => s.readX_buildTable ref r,
   fun _ hf => s.flag_buildTable_other ref (List.ne_of_not_mem_cons hf),
   fun _ hc hc' => s.readCsr_buildTable_other ref hc (List.ne_of_not_mem_cons hc'),
   rfl, rfl, rfl⟩

/-- Settles O23: the built table holds `tableWord` everywhere, which is R133's value where that may be relied on. -/
theorem ftbuildStoresEveryEntry : Obligations.FtbuildStoresEveryEntry := by
  intro rs s hlegal
  refine ⟨_, exec_ftbuild rs s, fun o ho semitone hs => ⟨_, s.read_buildTable _ ho hs, ?_⟩,
    fun _ hk => s.read_buildTable_beyond _ hk, rfl, rfl, ⟨rfl, rfl, rfl⟩, (s.unchangedBut_buildTable _).respond 0 []⟩
  intro V hV
  obtain rfl : V = entryValue s.cfg (s.readX rs) semitone o := hV.trans (entryValue_eq hlegal ho _ _).symm
  exact ⟨storedValue_toNat _ _ _ _, fun hpos hlt => tableWord_of_inContract ⟨hpos, hlt⟩⟩

/-! ## `NRES`, one rule per kind of note -/

/-- A listed word of the table reads without a change of the state. -/
theorem State.memRead_of_read {s : State} {k : Nat} {v : Word} (hk : k < tableSize s.cfg)
    (h : Memory.read s.ft k = some v) : s.memRead k = .ok (v, s) := by
  obtain ⟨u, t, hread⟩ := State.memRead_of_lt hk
  obtain ⟨_, ⟨hu, rfl⟩ | ⟨hnone, _⟩⟩ := State.memRead_ok hread
  · cases hu.symm.trans h
    exact hread
  · cases hnone.symm.trans h

theorem tableIndex_lt {p : Params} {semitone o : Nat} (hs : semitone < 12) (ho : o < p.nOct) :
    tableIndex semitone o < tableSize p := by
  simp only [tableIndex, tableSize]; omega

theorem noteOfFields_eq_rest {name : BitVec 4} {oct : BitVec 8} (hname : name.toNat = 15) (hoct : oct.toInt = 0) :
    noteOfFields name oct = some .rest :=
  if_pos ⟨BitVec.eq_of_toNat_eq hname, hoct⟩

section Nres
variable {name : BitVec 4} {oct : BitVec 8}

theorem exec_nres_of_rest (h : noteOfFields name oct = some .rest) (rd : Reg) (s : State) :
    exec (.nres rd name oct) s = .next ((s.writeX rd 0).respond 0 []) := by
  simp only [exec, execNres, h]

theorem exec_nres_of_reserved (h : noteOfFields name oct = none) (rd : Reg) (s : State) :
    exec (.nres rd name oct) s = .next s.illegalCommand := by
  simp only [exec, execNres, h]

/-- A tone whose table word is listed resolves to that word. -/
theorem exec_nres_of_tone {s : State} {v : Word} (hlegal : s.cfg.legal) (hname : name.toNat < 12)
    (h : Memory.read s.ft (tableIndex name.toNat (octaveIndex s.cfg oct.toInt)) = some v) (rd : Reg) :
    exec (.nres rd name oct) s = .next ((s.writeX rd v).respond 0 []) := by
  have hread := State.memRead_of_read (tableIndex_lt hname (octaveIndex_lt hlegal _)) h
  simp only [exec, execNres, noteOfFields_tone hname, hread]

/-- Of a tone's octave number `NRES` uses nothing but the octave index. -/
theorem exec_nres_of_octaveIndex_eq {s : State} {oct' : BitVec 8} (hname : name.toNat < 12)
    (h : octaveIndex s.cfg oct.toInt = octaveIndex s.cfg oct'.toInt) (rd : Reg) :
    exec (.nres rd name oct) s = exec (.nres rd name oct') s := by
  simp only [exec, execNres, noteOfFields_tone hname, h]

end Nres

/-- Settles O29: the three clauses are the three answers of `noteOfFields`. -/
theorem nresResolvesEveryNote : Obligations.NresResolvesEveryNote := by
  intro rd name oct s
  split_ifs with hrest htone
  · obtain ⟨hname, hoct⟩ := hrest
    exact ⟨_, exec_nres_of_rest (noteOfFields_eq_rest hname hoct) rd s, s.writeX_respond_effect rd 0⟩
  · intro hlegal v hv
    rw [← tableIndex_octaveIndex hlegal] at hv
    exact ⟨_, exec_nres_of_tone hlegal (Nat.lt_succ_of_le htone) hv rd, s.writeX_respond_effect rd v⟩
  · have hreserved : noteOfFields name oct = none :=
      (noteOfFields_eq_none_iff name oct).2 ⟨by omega, fun h15 h0 => hrest ⟨h15, by rw [h0]; rfl⟩⟩
    exact ⟨_, exec_nres_of_reserved hreserved rd s, State.illegalCommand_ill s, ⟨rfl, rfl, rfl⟩,
      s.unchangedBut_illegalCommand, fun _ => rfl⟩

/-! ## Clamping (R143) -/

/-- At the table's top octave and above, the octave index is the last. -/
theorem octaveIndex_of_top_le {p : Params} (h : p.legal) {octave : Int} (ho : p.firstOct + p.nOct - 1 ≤ octave) :
    octaveIndex p octave = p.nOct - 1 := by
  have hoct := h.1
  simp only [octaveIndex, clampInt]; omega

/-- At the table's first octave and below, the octave index is 0. -/
theorem octaveIndex_of_le_first {p : Params} (h : p.legal) {octave : Int} (ho : octave ≤ p.firstOct) :
    octaveIndex p octave = 0 := by
  have hoct := h.1
  simp only [octaveIndex, clampInt]; omega

/-- The octave numbers of a legal table fit the `oct` field. -/
theorem toInt_ofInt_octave {octave : Int} (hlo : -128 ≤ octave) (hhi : octave ≤ 127) :
    (BitVec.ofInt 8 octave).toInt = octave :=
  BitVec.toInt_ofInt_eq_self (by decide) (by omega) (by omega)

/-- Settles O31: an octave number beyond the table and the nearest one of the table have the same octave index. -/
theorem octavesBeyondTheTableClamp : Obligations.OctavesBeyondTheTableClamp := by
  intro rd name oct s hlegal hname
  have ⟨⟨hoct, _⟩, ⟨hfirst, hfirst', htop⟩, _⟩ := hlegal
  refine ⟨fun habove => ?_, fun hbelow => ?_⟩
  · refine exec_nres_of_octaveIndex_eq (Nat.lt_succ_of_le hname) ?_ rd
    rw [toInt_ofInt_octave (by omega) htop, octaveIndex_of_top_le hlegal habove.le,
      octaveIndex_of_top_le hlegal le_rfl]
  · refine exec_nres_of_octaveIndex_eq (Nat.lt_succ_of_le hname) ?_ rd
    rw [toInt_ofInt_octave hfirst hfirst', octaveIndex_of_le_first hlegal hbelow.le,
      octaveIndex_of_le_first hlegal le_rfl]

end Sys2Proof.Machine

/-! SUPPORT. Proofs about the period calculator: what silencing and loading a period leave unchanged, and what `PCALC` does
with the silence sentinel and with any other frequency (spec/42_period_calculator.md R161 to R165). -/
namespace Sys2Proof.Machine

/-! ## What `silence` and `loadPeriod` leave unchanged -/

theorem State.flag_silence_other (s : State) {f : Flag} (hf : f ≠ .sil) : s.silence.flag f = s.flag f := by
  cases f with
  | sil => exact absurd rfl hf
  | _ => rfl

/-- Of the control registers only `STATUS` shows `SIL`: `PERIOD` and `DUTY` hold (R164). -/
theorem State.readCsr_silence (s : State) {c : Csr} (hc : c ≠ .status) : s.silence.readCsr c = s.readCsr c := by
  cases c with
  | status => exact absurd rfl hc
  | _ => rfl

/-- The frame of R164. -/
theorem State.unchangedBut_silence (s : State) : UnchangedBut [] [.sil] [] s s.silence :=
  ⟨fun r _ => s.readX_silence r,
   fun _ hf => s.flag_silence_other (List.ne_of_not_mem_cons hf),
   fun _ hc _ => s.readCsr_silence hc,
   s.silence_cfg, s.silence_din, s.silence_inputs⟩

theorem State.flag_loadPeriod_other (s : State) (p : Word) {f : Flag} (hf : f ≠ .sil) :
    (s.loadPeriod p).flag f = s.flag f := by
  cases f with
  | sil => exact absurd rfl hf
  | _ => rfl

/-- Of the control registers a load changes `PERIOD` and `DUTY`, and `STATUS` through `SIL`. -/
theorem State.readCsr_loadPeriod_other (s : State) (p : Word) {c : Csr} (hc : c ≠ .status)
    (hc' : c ∉ [Csr.period, .duty]) : (s.loadPeriod p).readCsr c = s.readCsr c := by
  cases c with
  | status => exact absurd rfl hc
  | period | duty => exact absurd (by decide) hc'
  | _ => rfl

/-- The frame of R165's load. -/
theorem State.unchangedBut_loadPeriod (s : State) (p : Word) :
    UnchangedBut [] [.sil] [.period, .duty] s (s.loadPeriod p) :=
  ⟨fun r _ => s.readX_loadPeriod p r,
   fun _ hf => s.flag_loadPeriod_other p (List.ne_of_not_mem_cons hf),
   fun _ hc hc' => s.readCsr_loadPeriod_other p hc hc',
   s.loadPeriod_cfg p, s.loadPeriod_din p, s.loadPeriod_inputs p⟩

@[simp] theorem State.readCsr_loadPeriod_period (s : State) (p : Word) : (s.loadPeriod p).readCsr .period = p := rfl

@[simp] theorem State.readCsr_loadPeriod_duty (s : State) (p : Word) : (s.loadPeriod p).readCsr .duty = dutyOf p := rfl

/-! ## `PCALC` -/

/-- Settles O34: the sentinel silences; of any other frequency the clamped period fits its register and so is loaded
unchanged. -/
theorem pcalcComputesOrSilences : Obligations.PcalcComputesOrSilences := by
  intro rs s
  rcases exec_pcalc_cases rs s with ⟨hzero, hexec⟩ | ⟨hne, hexec⟩
  · rw [if_pos hzero]
    exact ⟨_, hexec, rfl, ⟨rfl, rfl, rfl⟩, s.unchangedBut_silence.respond 0 _, fun _ => rfl⟩
  · rw [if_neg hne]
    intro hlegal
    refine ⟨_, hexec, ?_, ?_, rfl, ⟨rfl, rfl, rfl⟩, (s.unchangedBut_loadPeriod _).respond 0 _, fun _ => rfl⟩
    · rw [State.readCsr_respond, State.readCsr_loadPeriod_period, periodOf_toNat hlegal]
      rfl
    · rw [State.readCsr_respond, State.readCsr_respond, State.readCsr_loadPeriod_duty, State.readCsr_loadPeriod_period,
        dutyOf_toNat]

end Sys2Proof.Machine

/-! SUPPORT. Proofs about the quadrature decoder: what its commands and a decoded sample leave unchanged, the tick step of a
disabled and of an enabled decoder, and the cells of the next-state function (spec/43_quadrature_decoder.md R182, R183,
R193 to R196, R199). -/
namespace Sys2Proof.Machine

/-! ## What the decoder's commands leave unchanged -/

theorem State.flag_initDecoder_other (s : State) (a b : BitVec 5) {f : Flag} (hf : f ∉ [Flag.qi, .en]) :
    (s.initDecoder a b).flag f = s.flag f := by
  cases f with
  | qi | en => exact absurd (by decide) hf
  | _ => rfl

/-- Of the control registers `QINIT` changes the decoder's own, and `STATUS` through `QI` and `EN`. -/
theorem State.readCsr_initDecoder_other (s : State) (a b : BitVec 5) {c : Csr} (hc : c ≠ .status)
    (hc' : c ∉ [Csr.pinsel, .tc, .dir, .qstate]) : (s.initDecoder a b).readCsr c = s.readCsr c := by
  cases c with
  | status => exact absurd rfl hc
  | pinsel | tc | dir | qstate => exact absurd (by decide) hc'
  | _ => rfl

/-- The frame of R193. -/
theorem State.unchangedBut_initDecoder (s : State) (a b : BitVec 5) :
    UnchangedBut [] [.qi, .en] [.pinsel, .tc, .dir, .qstate] s (s.initDecoder a b) :=
  ⟨fun r _ => s.readX_initDecoder a b r,
   fun _ hf => s.flag_initDecoder_other a b hf,
   fun _ hc hc' => s.readCsr_initDecoder_other a b hc hc',
   s.initDecoder_cfg a b, s.initDecoder_din a b, s.initDecoder_inputs a b⟩

/-- Of the control registers `QATT` changes the one of its direction's slot. -/
theorem State.readCsr_setSlot_other (s : State) (d : Dir) (slot : Slot) {c : Csr}
    (hc : c ≠ if d = .cw then .cbcw else .cbccw) : (s.setSlot d slot).readCsr c = s.readCsr c := by
  cases d with
  | cw =>
    cases c with
    | cbcw => exact absurd rfl hc
    | _ => rfl
  | ccw =>
    cases c with
    | cbccw => exact absurd rfl hc
    | _ => rfl

/-- The frame of R194. -/
theorem State.unchangedBut_setSlot (s : State) (d : Dir) (slot : Slot) :
    UnchangedBut [] [] [if d = .cw then .cbcw else .cbccw] s (s.setSlot d slot) :=
  ⟨fun r _ => s.readX_setSlot d slot r,
   fun f _ => s.flag_setSlot d slot f,
   fun _ _ hc => s.readCsr_setSlot_other d slot (List.ne_of_not_mem_cons hc),
   s.setSlot_cfg d slot, s.setSlot_din d slot, s.setSlot_inputs d slot⟩

theorem State.flag_enableDecoder_other (s : State) {f : Flag} (hf : f ≠ .en) :
    s.enableDecoder.flag f = s.flag f := by
  cases f with
  | en => exact absurd rfl hf
  | _ => simp [State.flag]

/-- Of the control registers `QEN` changes `QSTATE`, and `STATUS` through `EN`. -/
theorem State.readCsr_enableDecoder_other (s : State) {c : Csr} (hc : c ≠ .status) (hc' : c ≠ .qstate) :
    s.enableDecoder.readCsr c = s.readCsr c := by
  cases c with
  | status => exact absurd rfl hc
  | qstate => exact absurd rfl hc'
  | _ => simp [State.readCsr]

/-- The frame of R195. -/
theorem State.unchangedBut_enableDecoder (s : State) : UnchangedBut [] [.en] [.qstate] s s.enableDecoder :=
  ⟨fun r _ => s.readX_enableDecoder r,
   fun _ hf => s.flag_enableDecoder_other (List.ne_of_not_mem_cons hf),
   fun _ hc hc' => s.readCsr_enableDecoder_other hc (List.ne_of_not_mem_cons hc'),
   s.enableDecoder_cfg, s.enableDecoder_din, s.enableDecoder_inputs⟩

theorem State.flag_disableDecoder_other (s : State) {f : Flag} (hf : f ≠ .en) :
    s.disableDecoder.flag f = s.flag f := by
  cases f with
  | en => exact absurd rfl hf
  | _ => rfl

/-- Of the control registers only `STATUS` shows `EN`. -/
theorem State.readCsr_disableDecoder (s : State) {c : Csr} (hc : c ≠ .status) :
    s.disableDecoder.readCsr c = s.readCsr c := by
  cases c with
  | status => exact absurd rfl hc
  | _ => rfl

/-- The frame of R196. -/
theorem State.unchangedBut_disableDecoder (s : State) : UnchangedBut [] [.en] [] s s.disableDecoder :=
  ⟨fun r _ => s.readX_disableDecoder r,
   fun _ hf => s.flag_disableDecoder_other (List.ne_of_not_mem_cons hf),
   fun _ hc _ => s.readCsr_disableDecoder hc,
   s.disableDecoder_cfg, s.disableDecoder_din, s.disableDecoder_inputs⟩

/-! ## The tick of a disabled decoder -/

theorem State.unchangedBut_quiet (s : State) : UnchangedBut [] [] [] s s.quiet :=
  ⟨fun r _ => s.readX_quiet r, fun f _ => s.flag_quiet f, fun c _ _ => s.readCsr_quiet c, rfl, rfl, rfl⟩

theorem State.tickStep_of_disabled {s : State} (h : s.en = false) : s.tickStep = s.quiet := by
  simp [State.tickStep, h]

/-- With `EN = 0` the tick is dropped (R182). -/
theorem step_tick_of_disabled {s : State} {rest : List Input} (hin : s.inputs = .tick :: rest) (h : s.en = false) :
    step s = .next ({ s with inputs := rest } : State).quiet :=
  (step_tick hin).trans (congrArg Host.Outcome.next (State.tickStep_of_disabled h))

/-! ## The sample of an enabled decoder -/

/-- A step that writes the decoder's state, `TC`, `DIR` and the outputs, and may use free values, changes nothing else. -/
theorem State.unchangedBut_decoderMove (s : State) (q : QState) (n : Word) (d : Dir) (r : Option Word) (es : List Event)
    (f : Nat) : UnchangedBut [] [] [.tc, .dir, .qstate] s
      { s with qs := q, tc := n, dir := d, rsp := r, events := es, free := f } := by
  refine ⟨fun r _ => ?_, fun f _ => ?_, fun c _ hc => ?_, rfl, rfl, rfl⟩
  · cases r <;> rfl
  · cases f <;> rfl
  · cases c with
    | tc | dir | qstate => exact absurd (by decide) hc
    | _ => rfl

section Sample
variable {s : State} {a b : Bool}

/-- A sample that does not commit only moves the state. -/
theorem State.decodeSample_of_no_commit (h : (qnext s.qs a b).2 = none) :
    s.decodeSample a b = { s.quiet with qs := (qnext s.qs a b).1 } := by
  rcases hq : qnext s.qs a b with ⟨q, _ | d⟩
  · simp only [State.decodeSample, hq]
  · simp only [hq, reduceCtorEq] at h

/-- A sample that commits also counts, sets the direction and calls back. -/
theorem State.decodeSample_of_commit {d : Dir} (h : (qnext s.qs a b).2 = some d) :
    s.decodeSample a b = { s with qs := (qnext s.qs a b).1, tc := countCommit s.tc d, dir := d, rsp := none,
                                  events := s.callbackEvents d } := by
  rcases hq : qnext s.qs a b with ⟨q, _ | d'⟩
  · simp only [hq, reduceCtorEq] at h
  · obtain rfl : d' = d := by simpa only [hq, Option.some.injEq] using h
    simp only [State.decodeSample, hq]

end Sample

/-- What a sample does whether it commits or not (R182). -/
theorem State.decodeSample_effect (s : State) (a b : Bool) :
    (s.decodeSample a b).qs = (qnext s.qs a b).1 ∧ (s.decodeSample a b).rsp = none ∧
      (s.decodeSample a b).free = s.free ∧ UnchangedBut [] [] [.tc, .dir, .qstate] s (s.decodeSample a b) ∧
      SameTable s (s.decodeSample a b) := by
  cases h : (qnext s.qs a b).2 with
  | none =>
    rw [State.decodeSample_of_no_commit h]
    exact ⟨rfl, rfl, rfl, s.unchangedBut_decoderMove .., fun _ => rfl⟩
  | some d =>
    rw [State.decodeSample_of_commit h]
    exact ⟨rfl, rfl, rfl, s.unchangedBut_decoderMove .., fun _ => rfl⟩

/-- The count of a commit on signed numbers (R199). -/
theorem countCommit_toInt (n : Word) (d : Dir) :
    (countCommit n d).toInt = (n.toInt + if d = .cw then 1 else -1).bmod (2 ^ 32) := by
  cases d with
  | cw => exact BitVec.toInt_add n 1
  | ccw => exact BitVec.toInt_sub

/-- A sample that does not commit keeps the count and the direction and emits nothing. -/
theorem State.decodeSample_count_of_no_commit {s : State} {a b : Bool} (h : (qnext s.qs a b).2 = none) :
    (s.decodeSample a b).readCsr .tc = s.readCsr .tc ∧ (s.decodeSample a b).dir = s.dir ∧
      (s.decodeSample a b).events = [] := by
  rw [State.decodeSample_of_no_commit h]
  exact ⟨rfl, rfl, rfl⟩

/-- A commit counts by one, sets the direction and emits its callback if one is attached (R190, R191, R199). -/
theorem State.decodeSample_count_of_commit {s : State} {a b : Bool} {d : Dir} (h : (qnext s.qs a b).2 = some d) :
    ((s.decodeSample a b).readCsr .tc).toInt =
        ((s.readCsr .tc).toInt + (if d = .cw then 1 else -1)).bmod (2 ^ 32) ∧
      (s.decodeSample a b).dir = d ∧ (s.decodeSample a b).events = s.callbackEvents d := by
  rw [State.decodeSample_of_commit h]
  exact ⟨countCommit_toInt s.tc d, rfl, rfl⟩

/-- With `EN = 1` and pins that exist, the tick decodes the two levels (R182). -/
theorem step_tick_of_enabled {s : State} {rest : List Input} (hin : s.inputs = .tick :: rest) (hen : s.en = true)
    (ha : s.pinA.toNat < s.cfg.npin) (hb : s.pinB.toNat < s.cfg.npin) {a b : Bool} (hab : ShowsPattern s s.din a b) :
    step s = .next (({ s with inputs := rest } : State).decodeSample a b) := by
  obtain ⟨rfl, rfl⟩ := hab
  exact (step_tick hin).trans
    (congrArg Host.Outcome.next (State.tickStep_of_pins_exist hen (decide_eq_true ha) (decide_eq_true hb)))

/-- Settles O42: a disabled decoder's tick is `quiet`; an enabled one's decodes the sample, with or without a commit. -/
theorem tickStepFollowsItsRule : Obligations.TickStepFollowsItsRule := by
  intro s rest hin
  refine ⟨fun hdis => ⟨_, step_tick_of_disabled hin hdis, rfl, rfl, rfl, State.unchangedBut_quiet _, fun _ => rfl⟩,
    fun hen ha hb a b hab => ?_⟩
  obtain ⟨hqs, hrsp, hfree, hframe, htable⟩ := ({ s with inputs := rest } : State).decodeSample_effect a b
  exact ⟨_, step_tick_of_enabled hin hen ha hb hab, hqs, fun hhold => State.decodeSample_count_of_no_commit hhold,
    fun _ hcommit => State.decodeSample_count_of_commit hcommit, hrsp, hfree, hframe, htable⟩

/-! ## The decoder's commands -/

/-- `PINSEL` holds the two indices at bits 0 and 8 (R35). -/
theorem State.readCsr_pinsel_toNat (s : State) :
    (s.readCsr .pinsel).toNat = s.pinA.toNat + 2 ^ 8 * s.pinB.toNat := by
  simp only [State.readCsr, toNat_append_eq_mul_add, BitVec.toNat_ofNat]
  omega

/-- Settles O37: the fields `QINIT` writes and the frame of the rest. -/
theorem qinitStartsTheDecoder : Obligations.QinitStartsTheDecoder :=
  fun pina pinb s => ⟨_, exec_qinit pina pinb s, State.readCsr_pinsel_toNat _, rfl, rfl, rfl, rfl, rfl, ⟨rfl, rfl, rfl⟩,
    (s.unchangedBut_initDecoder pina pinb).respond 0 [], fun _ => rfl⟩

/-- Settles O38: a slot reads as it was set, and the other one as before. -/
theorem qattFillsItsSlot : Obligations.QattFillsItsSlot := by
  intro d handle s
  refine ⟨_, exec_qatt d handle s, ?_, fun d' hd' => ?_, ⟨rfl, rfl, State.setSlot_free s d _⟩,
    (s.unchangedBut_setSlot d _).respond 0 [], fun _ => ?_⟩
  · rw [State.slot_respond, State.slot_setSlot_same]
  · rw [State.slot_respond, State.slot_setSlot_other s hd']
  · rw [State.respond_ft, State.setSlot_ft]

/-- Settles O39: `enableDecoder` goes to `Start` exactly when the decoder was disabled. -/
theorem qenEnablesFromStart : Obligations.QenEnablesFromStart := by
  intro s
  have hqs : (s.enableDecoder.respond 0 []).qs = if s.en then s.qs else .start := s.enableDecoder_qs
  refine ⟨_, exec_qen s, s.enableDecoder_en, fun hdis => ?_, fun hen => ?_, ⟨rfl, rfl, s.enableDecoder_free⟩,
    s.unchangedBut_enableDecoder.respond 0 [], fun _ => ?_⟩
  · change s.en = false at hdis
    rw [hqs, hdis, if_neg Bool.false_ne_true]
  · exact hqs.trans (if_pos hen)
  · rw [State.respond_ft, State.enableDecoder_ft]

/-- Settles O40: `QDIS` only clears `EN`, and with `EN = 0` the next tick is dropped. -/
theorem qdisDisables : Obligations.QdisDisables :=
  fun s => ⟨_, exec_qdis s, rfl, ⟨rfl, rfl, rfl⟩, s.unchangedBut_disableDecoder.respond 0 [], fun _ => rfl,
    fun _ hin => ⟨_, step_tick_of_disabled hin rfl, State.unchangedBut_quiet _, fun _ => rfl, rfl, rfl, rfl⟩⟩

/-! ## The cells of the next-state function -/

/-- Settles O41: under each of the four patterns the seven cells of its column agree by computation. -/
theorem decoderTableFollowsThePatterns : Obligations.DecoderTableFollowsThePatterns := by
  intro a b
  cases a <;> cases b <;> exact ⟨rfl, rfl, rfl, rfl, rfl, rfl, rfl⟩

end Sys2Proof.Machine

/-! SUPPORT. Proofs about exceptions and events: no command and no step traps, and each output event comes out of exactly the
steps its rule names (spec/60_exceptions.md R260, R268, R269). -/
namespace Sys2Proof.Machine

/-! ## Every step completes (R260) -/

/-- With legal parameters `NRES` never asks for a word the table does not have: the semitone is below 12 and the octave
index is clamped to the table. -/
theorem exec_nres_completes {s : State} (h : s.cfg.legal) (rd : Reg) (name : BitVec 4) (oct : BitVec 8) :
    ∃ t, exec (.nres rd name oct) s = .next t := by
  rcases exec_nres_cases rd name oct s with ⟨_, hexec⟩ | ⟨_, hexec⟩ | ⟨_, _, _, _, _, _, hexec⟩ |
    ⟨semitone, octave, _, _, hfault, _⟩
  iterate 3 · exact ⟨_, hexec⟩
  · obtain ⟨_, _, hread⟩ := State.memRead_of_lt (tableIndex_lt semitone.isLt (octaveIndex_lt h octave))
    cases hfault.symm.trans hread

/-- With legal parameters every command completes; only `NRES` has a path that faults. -/
theorem exec_completes {s : State} (h : s.cfg.legal) (i : Instr) : ∃ t, exec i s = .next t := by
  cases i with
  | rdcsr rd n => rcases exec_rdcsr_cases rd n s with ⟨_, _, hexec⟩ | ⟨_, hexec⟩ <;> exact ⟨_, hexec⟩
  | pcalc rs => rcases exec_pcalc_cases rs s with ⟨_, hexec⟩ | ⟨_, hexec⟩ <;> exact ⟨_, hexec⟩
  | nres rd name oct => exact exec_nres_completes h rd name oct
  | _ => exact ⟨_, rfl⟩

/-- Settles O12: every kind of input but a legal command word answers outright, and a command completes. -/
theorem everyStepCompletes : Obligations.EveryStepCompletes := by
  intro s hlegal
  rcases step_cases s with ⟨_, hs⟩ | ⟨_, _, hs⟩ | ⟨_, _, hs⟩ | ⟨_, _, _, hs⟩ | ⟨_, _, _, _, _, hs⟩ |
    ⟨_, rest, i, _, _, hs⟩
  iterate 5 · exact ⟨_, hs⟩
  · rw [hs]
    exact exec_completes (s := { s with inputs := rest }) hlegal i

/-! ## The output ports as views of the events (R40) -/

/-- The callback line of a direction. -/
def State.callbackLine (s : State) : Dir → Bool
  | .cw => s.evtCwO
  | .ccw => s.evtCcwO

/-- A callback line is 1 exactly when a callback of its direction has been emitted. -/
theorem State.callbackLine_iff (s : State) (d : Dir) :
    s.callbackLine d = true ↔ ∃ handle, Event.callback d handle ∈ s.events := by
  constructor
  · intro h
    cases d <;> obtain ⟨e, he, hline⟩ := List.any_eq_true.1 h <;> split at hline <;> cases hline <;> exact ⟨_, he⟩
  · rintro ⟨handle, he⟩
    cases d <;> exact List.any_eq_true.2 ⟨_, he, rfl⟩

/-- `load_o` is 1 exactly when a `TimerLoad` has been emitted. -/
theorem State.loadO_iff (s : State) : s.loadO = true ↔ ∃ period duty, Event.timerLoad period duty ∈ s.events := by
  constructor
  · intro h
    obtain ⟨e, he, hload⟩ := List.any_eq_true.1 h
    split at hload <;> cases hload
    exact ⟨_, _, he⟩
  · rintro ⟨period, duty, he⟩
    exact List.any_eq_true.2 ⟨_, he, rfl⟩

/-- The handle port shows the handle of a callback that is the only event. -/
theorem State.evtHandleO_of_callback {s : State} {d : Dir} {handle : BitVec 16}
    (h : s.events = [.callback d handle]) : s.evtHandleO = some handle := by
  simp only [State.evtHandleO, h, List.findSome?_cons]

/-! ## The sources of the events (R268, R269) -/

/-- The state from which a rotation in a direction commits (R190). -/
def commitState : Dir → QState
  | .cw => .cw3
  | .ccw => .ccw3

/-- A cell commits in a direction exactly when it leads from that direction's commit state to `Start`: no other cell of
the two commit states does. -/
theorem qnext_commit_iff (q : QState) (a b : Bool) (d : Dir) :
    (qnext q a b).2 = some d ↔ q = commitState d ∧ (qnext q a b).1 = .start := by
  cases q <;> cases a <;> cases b <;> cases d <;> decide

/-- The source of a callback (R268): from `s` to `t` a tick of an enabled decoder commits in the direction `d`, whose slot is
attached. -/
def CallsBack (s t : State) (d : Dir) : Prop :=
  (∃ rest, s.inputs = .tick :: rest) ∧ s.flag .en = true ∧ s.qs = commitState d ∧ t.qs = .start ∧ (s.slot d).valid = true

/-- The source of a timer event (R269): the next input is a `PCALC` of a register whose word satisfies `P`. -/
def PcalcArrives (s : State) (P : Word → Prop) : Prop :=
  ∃ w rs rest, s.inputs = .cmd w :: rest ∧ decode w = .ok (.pcalc rs) ∧ P (s.readX rs)

/-- A callback is emitted with the slot's handle, and only if the slot is attached (R191). -/
theorem State.mem_callbackEvents {s : State} {d : Dir} {e : Event} :
    e ∈ s.callbackEvents d ↔ (s.slot d).valid = true ∧ e = .callback d (s.slot d).handle := by
  unfold State.callbackEvents
  split <;> simp_all

/-- What a tick emits is the callback of a commit. -/
theorem State.mem_tickStep_events {s : State} {e : Event} (h : e ∈ s.tickStep.events) :
    s.en = true ∧ ∃ d, s.qs = commitState d ∧ s.tickStep.qs = .start ∧ e ∈ s.callbackEvents d := by
  rcases State.tickStep_cases s with ⟨_, ht⟩ | ⟨_, _, _, ht⟩ | ⟨hen, q, d, hq, ht⟩ <;> rw [ht] at h ⊢
  iterate 2 · cases h
  · obtain ⟨hqs, hstart⟩ := (qnext_commit_iff ..).1 (congrArg Prod.snd hq)
    rw [hq] at hstart
    exact ⟨hen, d, hqs, hstart, h⟩

/-- A tick of an enabled decoder from a commit state to `Start` emits exactly its callback. -/
theorem State.tickStep_events_of_commit {s : State} {d : Dir} (hen : s.en = true) (hqs : s.qs = commitState d)
    (hstart : s.tickStep.qs = .start) : s.tickStep.events = s.callbackEvents d := by
  rcases State.tickStep_cases s with ⟨hdis, _⟩ | ⟨_, q, hq, ht⟩ | ⟨_, q, d', hq, ht⟩
  · cases hdis.symm.trans hen
  all_goals
    rw [ht] at hstart ⊢
    have hcommit := (qnext_commit_iff s.qs _ _ d).2 ⟨hqs, (congrArg Prod.fst hq).trans hstart⟩
    cases (congrArg Prod.snd hq).symm.trans hcommit
  rfl

/-- What a command emits is a timer event of `PCALC`. -/
theorem exec_events {i : Instr} {s t : State} {e : Event} (h : exec i s = .next t) (he : e ∈ t.events) :
    ∃ rs, i = .pcalc rs ∧ ((s.readX rs = 0 ∧ e = .timerSilence) ∨
      (s.readX rs ≠ 0 ∧ ∃ period duty, e = .timerLoad period duty)) := by
  rcases exec_cases h with ⟨_, rfl, _⟩ | ⟨_, _, rfl, _⟩ | ⟨rfl, _⟩ | ⟨_, _, rfl⟩ | ⟨_, _, _, _, _, _, _, _, _, _, rfl⟩ |
    ⟨rs, hi, hzero, rfl⟩ | ⟨rs, _, hi, hne, _, rfl⟩ | ⟨_, _, _, rfl⟩ | ⟨_, _, _, rfl⟩ | ⟨_, rfl⟩ | ⟨_, rfl⟩
  case inr.inr.inr.inr.inr.inl => exact ⟨rs, hi, .inl ⟨hzero, List.mem_singleton.1 he⟩⟩
  case inr.inr.inr.inr.inr.inr.inl => exact ⟨rs, hi, .inr ⟨hne, _, _, List.mem_singleton.1 he⟩⟩
  all_goals cases he

section Step
variable {s t : State}

/-- Every event a step emits has one of the three sources. -/
theorem step_event_source {e : Event} (h : step s = .next t) (he : e ∈ t.events) :
    (∃ d, CallsBack s t d ∧ e = .callback d (s.slot d).handle) ∨
    (PcalcArrives s (· = 0) ∧ e = .timerSilence) ∨
    (PcalcArrives s (· ≠ 0) ∧ ∃ period duty, e = .timerLoad period duty) := by
  rcases step_cases s with ⟨_, hs⟩ | ⟨_, _, hs⟩ | ⟨rest, hin, hs⟩ | ⟨_, _, _, hs⟩ | ⟨_, _, _, _, _, hs⟩ |
    ⟨w, rest, i, hin, hd, hexec⟩
  case inr.inr.inl =>
    rw [hs] at h; cases h
    obtain ⟨hen, d, hqs, hstart, hcb⟩ := State.mem_tickStep_events he
    obtain ⟨hvalid, heq⟩ := State.mem_callbackEvents.1 hcb
    have hslot : ({ s with inputs := rest } : State).slot d = s.slot d := rfl
    rw [hslot] at hvalid heq
    exact .inl ⟨d, ⟨⟨rest, hin⟩, hen, hqs, hstart, hvalid⟩, heq⟩
  case inr.inr.inr.inr.inr =>
    obtain ⟨rs, rfl, ⟨hzero, heq⟩ | ⟨hne, heq⟩⟩ := exec_events (hexec.symm.trans h) he
    · exact .inr (.inl ⟨⟨w, rs, rest, hin, hd, hzero⟩, heq⟩)
    · exact .inr (.inr ⟨⟨w, rs, rest, hin, hd, hne⟩, heq⟩)
  all_goals rw [hs] at h; cases h; cases he

/-- The step of a callback's source emits that callback and nothing else. -/
theorem CallsBack.events {d : Dir} (hcb : CallsBack s t d) (h : step s = .next t) :
    t.events = [.callback d (s.slot d).handle] := by
  obtain ⟨⟨rest, hin⟩, hen, hqs, hstart, hvalid⟩ := hcb
  rw [step_tick hin] at h
  cases h
  exact (State.tickStep_events_of_commit (s := { s with inputs := rest }) hen hqs hstart).trans (if_pos hvalid)

theorem timerSilence_mem_of_pcalcArrives (hp : PcalcArrives s (· = 0)) (h : step s = .next t) :
    Event.timerSilence ∈ t.events := by
  obtain ⟨w, rs, rest, hin, hd, hzero⟩ := hp
  rw [step_cmd hin hd] at h
  rcases exec_pcalc_cases rs { s with inputs := rest } with ⟨_, hexec⟩ | ⟨hne, _⟩
  · cases hexec.symm.trans h
    exact List.mem_singleton_self _
  · exact absurd hzero hne

theorem timerLoad_mem_of_pcalcArrives (hp : PcalcArrives s (· ≠ 0)) (h : step s = .next t) :
    ∃ period duty, Event.timerLoad period duty ∈ t.events := by
  obtain ⟨w, rs, rest, hin, hd, hne⟩ := hp
  rw [step_cmd hin hd] at h
  rcases exec_pcalc_cases rs { s with inputs := rest } with ⟨hzero, _⟩ | ⟨_, hexec⟩
  · exact absurd hzero hne
  · cases hexec.symm.trans h
    exact ⟨_, _, List.mem_singleton_self _⟩

/-- R268: a callback line is 1 exactly in the step of its source. -/
theorem callbackLine_iff_callsBack (h : step s = .next t) (d : Dir) : t.callbackLine d = true ↔ CallsBack s t d := by
  rw [State.callbackLine_iff]
  constructor
  · rintro ⟨handle, he⟩
    rcases step_event_source h he with ⟨_, hcb, heq⟩ | ⟨_, heq⟩ | ⟨_, _, _, heq⟩ <;> cases heq
    exact hcb
  · intro hcb
    exact ⟨_, by rw [hcb.events h]; exact List.mem_singleton_self _⟩

/-- R268: the handle shown with a callback line is the slot's. -/
theorem evtHandleO_of_callbackLine (h : step s = .next t) {d : Dir} (hline : t.callbackLine d = true) :
    t.evtHandleO = some (s.slot d).handle :=
  State.evtHandleO_of_callback (((callbackLine_iff_callsBack h d).1 hline).events h)

/-- A step calls back in at most one direction: the two commit states differ. -/
theorem not_callsBack_both : ¬ (CallsBack s t .cw ∧ CallsBack s t .ccw) := by
  rintro ⟨⟨_, _, hcw, _⟩, ⟨_, _, hccw, _⟩⟩
  cases hcw.symm.trans hccw

/-- R269: `load_o` is 1 exactly in the step of a `PCALC` of a frequency. -/
theorem loadO_iff_pcalcArrives (h : step s = .next t) : t.loadO = true ↔ PcalcArrives s (· ≠ 0) := by
  rw [State.loadO_iff]
  constructor
  · rintro ⟨period, duty, he⟩
    rcases step_event_source h he with ⟨_, _, heq⟩ | ⟨_, heq⟩ | ⟨hp, _⟩
    iterate 2 · cases heq
    · exact hp
  · exact fun hp => timerLoad_mem_of_pcalcArrives hp h

/-- R269: `TimerSilence` is emitted exactly by a `PCALC` of the sentinel. -/
theorem timerSilence_mem_iff_pcalcArrives (h : step s = .next t) :
    Event.timerSilence ∈ t.events ↔ PcalcArrives s (· = 0) := by
  constructor
  · intro he
    rcases step_event_source h he with ⟨_, _, heq⟩ | ⟨hp, _⟩ | ⟨_, _, _, heq⟩
    · cases heq
    · exact hp
    · cases heq
  · exact fun hp => timerSilence_mem_of_pcalcArrives hp h

end Step

/-- Settles O51: every event has its one source, and the step of a source emits its event. -/
theorem eventsComeOnlyFromTheirSources : Obligations.EventsComeOnlyFromTheirSources := by
  intro s t h
  have hcw := callbackLine_iff_callsBack h .cw
  have hccw := callbackLine_iff_callsBack h .ccw
  exact ⟨hcw, hccw, fun hline => evtHandleO_of_callbackLine (d := .cw) h hline,
    fun hline => evtHandleO_of_callbackLine (d := .ccw) h hline,
    fun ⟨hlineCw, hlineCcw⟩ => not_callsBack_both ⟨hcw.1 hlineCw, hccw.1 hlineCcw⟩,
    loadO_iff_pcalcArrives h, timerSilence_mem_iff_pcalcArrives h⟩

end Sys2Proof.Machine

/-! SUPPORT. Proofs about the round trip of the encoding: the fields of a command's word, the word a format's fields make up,
the four kinds of illegal word, the decoded command of a step, and `LI` as its two words (spec/30_encoding.md R82 to R87,
R91). -/
namespace Sys2Proof.Machine

/-! ## Decoding an encoded command -/

/-- The word of every command has the form of the command's row (R83, R85). -/
theorem encode_form (i : Instr) : encode i &&& (rowFor i).mask = (rowFor i).pattern := by
  cases i with
  | nop => exact Laws.EncodeForm.nop
  | ldh rd imm => exact Laws.EncodeForm.ldh rd imm
  | ldl rd imm => exact Laws.EncodeForm.ldl rd imm
  | rdx rs => exact Laws.EncodeForm.rdx rs
  | rdcsr rd csr => exact Laws.EncodeForm.rdcsr rd csr
  | ftbuild rs => exact Laws.EncodeForm.ftbuild rs
  | nres rd name oct => exact Laws.EncodeForm.nres rd name oct
  | pcalc rs => exact Laws.EncodeForm.pcalc rs
  | qinit pina pinb => exact Laws.EncodeForm.qinit pina pinb
  | qatt dir handle => exact Laws.EncodeForm.qatt dir handle
  | qen => exact Laws.EncodeForm.qen
  | qdis => exact Laws.EncodeForm.qdis

/-- Each operand comes back out of its field: the field lies within one part of the concatenation (R82). -/
theorem fieldsOf_encode (i : Instr) : fieldsOf (rowFor i).op (encode i) = i := by
  cases i <;>
    simp only [rowFor, fieldsOf, encode, rdField, rsField, immField, BitVec.extractLsb'_append_eq_of_le,
      BitVec.extractLsb'_append_eq_right, Nat.reduceLeDiff, Nat.reduceSub, regOfBits_regBits, dirOfBit_dirBit]

theorem decode_encode {i : Instr} (h : i.wellFormed) : decode (encode i) = .ok i := by
  have hchecks : i.illFormed? = none := h
  rw [decode_of_form (rowFor_mem i) (encode_form i), fieldsOf_encode, hchecks]

/-- Settles O1: the word has its row's form, its fields are the operands, and the value checks pass. -/
theorem decodeOfEncodeGivesTheCommand : Obligations.DecodeOfEncodeGivesTheCommand :=
  fun _ h => decode_encode h

/-! ## Encoding a decoded word

One lemma per format of R82: the operand fields, and the fixed fields between them, make up the word. -/

section Format
variable {w : Word}

/-- A field that a form's mask covers whole holds what the pattern has there. -/
theorem field_of_form {mask pattern : Word} (h : w &&& mask = pattern) {start len : Nat} {c : BitVec len}
    (hfixed : mask.extractLsb' start len = BitVec.allOnes len ∧ pattern.extractLsb' start len = c) :
    w.extractLsb' start len = c := by
  obtain ⟨hmask, hpattern⟩ := hfixed
  rw [← hpattern, ← h, BitVec.extractLsb'_and, hmask, BitVec.and_allOnes]

theorem word_of_format_Z {op : BitVec 8} {low : BitVec 24} (hop : w.extractLsb' 24 8 = op)
    (hlow : w.extractLsb' 0 24 = low) : op ++ low = w := by
  subst hop hlow
  refine BitVec.eq_of_toNat_eq ?_
  simp only [toNat_append_eq_mul_add, BitVec.extractLsb'_toNat, Nat.shiftRight_eq_div_pow]
  omega

theorem word_of_format_I {op : BitVec 8} {z : BitVec 6} (hop : w.extractLsb' 24 8 = op)
    (hz : w.extractLsb' 16 6 = z) : op ++ regBits (rdField w) ++ z ++ immField w = w := by
  subst hop hz
  refine BitVec.eq_of_toNat_eq ?_
  simp only [rdField, immField, regBits_regOfBits, toNat_append_eq_mul_add, BitVec.extractLsb'_toNat, Nat.shiftRight_eq_div_pow]
  omega

theorem word_of_format_S {op : BitVec 8} {z : BitVec 2} {low : BitVec 20} (hop : w.extractLsb' 24 8 = op)
    (hz : w.extractLsb' 22 2 = z) (hlow : w.extractLsb' 0 20 = low) : op ++ z ++ regBits (rsField w) ++ low = w := by
  subst hop hz hlow
  refine BitVec.eq_of_toNat_eq ?_
  simp only [rsField, regBits_regOfBits, toNat_append_eq_mul_add, BitVec.extractLsb'_toNat, Nat.shiftRight_eq_div_pow]
  omega

theorem word_of_format_C {op : BitVec 8} {z : BitVec 14} (hop : w.extractLsb' 24 8 = op)
    (hz : w.extractLsb' 8 14 = z) : op ++ regBits (rdField w) ++ z ++ w.extractLsb' 0 8 = w := by
  subst hop hz
  refine BitVec.eq_of_toNat_eq ?_
  simp only [rdField, regBits_regOfBits, toNat_append_eq_mul_add, BitVec.extractLsb'_toNat, Nat.shiftRight_eq_div_pow]
  omega

theorem word_of_format_N {op : BitVec 8} {z : BitVec 10} (hop : w.extractLsb' 24 8 = op)
    (hz : w.extractLsb' 12 10 = z) :
    op ++ regBits (rdField w) ++ z ++ w.extractLsb' 8 4 ++ w.extractLsb' 0 8 = w := by
  subst hop hz
  refine BitVec.eq_of_toNat_eq ?_
  simp only [rdField, regBits_regOfBits, toNat_append_eq_mul_add, BitVec.extractLsb'_toNat, Nat.shiftRight_eq_div_pow]
  omega

theorem word_of_format_Q {op : BitVec 8} {z : BitVec 11} {z' : BitVec 3} (hop : w.extractLsb' 24 8 = op)
    (hz : w.extractLsb' 13 11 = z) (hz' : w.extractLsb' 5 3 = z') :
    op ++ z ++ w.extractLsb' 8 5 ++ z' ++ w.extractLsb' 0 5 = w := by
  subst hop hz hz'
  refine BitVec.eq_of_toNat_eq ?_
  simp only [toNat_append_eq_mul_add, BitVec.extractLsb'_toNat, Nat.shiftRight_eq_div_pow]
  omega

theorem word_of_format_A {op : BitVec 8} {z : BitVec 3} {z' : BitVec 4} (hop : w.extractLsb' 24 8 = op)
    (hz : w.extractLsb' 21 3 = z) (hz' : w.extractLsb' 16 4 = z') :
    op ++ z ++ dirBit (dirOfBit (w.extractLsb' 20 1)) ++ z' ++ immField w = w := by
  subst hop hz hz'
  refine BitVec.eq_of_toNat_eq ?_
  simp only [immField, dirBit_dirOfBit, toNat_append_eq_mul_add, BitVec.extractLsb'_toNat, Nat.shiftRight_eq_div_pow]
  omega

end Format

/-- A word of a row's form is the word of its fields (R83: no bit of it is ignored). -/
theorem encode_fieldsOf {w : Word} {r : OpRow} (hr : r ∈ opcodeMap) (h : w &&& r.mask = r.pattern) :
    encode (fieldsOf r.op w) = w := by
  simp only [opcodeMap, List.mem_cons, List.not_mem_nil, or_false] at hr
  rcases hr with rfl | rfl | rfl | rfl | rfl | rfl | rfl | rfl | rfl | rfl | rfl | rfl
  · exact word_of_format_Z (field_of_form h (by decide)) (field_of_form h (by decide))
  · exact word_of_format_I (field_of_form h (by decide)) (field_of_form h (by decide))
  · exact word_of_format_I (field_of_form h (by decide)) (field_of_form h (by decide))
  · exact word_of_format_S (field_of_form h (by decide)) (field_of_form h (by decide)) (field_of_form h (by decide))
  · exact word_of_format_C (field_of_form h (by decide)) (field_of_form h (by decide))
  · exact word_of_format_S (field_of_form h (by decide)) (field_of_form h (by decide)) (field_of_form h (by decide))
  · exact word_of_format_N (field_of_form h (by decide)) (field_of_form h (by decide))
  · exact word_of_format_S (field_of_form h (by decide)) (field_of_form h (by decide)) (field_of_form h (by decide))
  · exact word_of_format_Q (field_of_form h (by decide)) (field_of_form h (by decide)) (field_of_form h (by decide))
  · exact word_of_format_A (field_of_form h (by decide)) (field_of_form h (by decide)) (field_of_form h (by decide))
  · exact word_of_format_Z (field_of_form h (by decide)) (field_of_form h (by decide))
  · exact word_of_format_Z (field_of_form h (by decide)) (field_of_form h (by decide))

/-- Settles O2: what decodes has a row's form, and the fields of that form make up the word. -/
theorem decodedWordIsItsEncoding : Obligations.DecodedWordIsItsEncoding := by
  intro w i h
  obtain ⟨hwf, r, hr, hform, rfl⟩ := decode_ok h
  exact ⟨hwf, encode_fieldsOf hr hform⟩

/-! ## Rows and refusals -/

/-- Settles O3: a form fixes the opcode, and the rows have different opcodes. -/
theorem atMostOneRowMatches : Obligations.AtMostOneRowMatches :=
  fun _ r₁ h₁ r₂ h₂ hform₁ hform₂ =>
    row_of_opField r₁ h₁ r₂ h₂ ((opField_of_form h₁ hform₁).symm.trans (opField_of_form h₂ hform₂))

/-- The row of an operation is the only one of the opcode map. -/
theorem row_of_op : ∀ r₁ ∈ opcodeMap, ∀ r₂ ∈ opcodeMap, r₁.op = r₂.op → r₁ = r₂ := by decide

/-- A value check (R86) fails only for an unassigned number of `RDCSR` or a reserved note of `NRES`. -/
theorem illFormed?_fieldsOf {op : Op} {w : Word} {why : IllFormed} (h : (fieldsOf op w).illFormed? = some why) :
    (op = .rdcsr ∧ csrOfNumber (w.extractLsb' 0 8) = none) ∨
      (op = .nres ∧ noteOfFields (w.extractLsb' 8 4) (w.extractLsb' 0 8) = none) := by
  cases op with
  | rdcsr =>
    refine .inl ⟨rfl, ?_⟩
    by_contra hne
    simp [fieldsOf, Instr.illFormed?, Option.isSome_iff_ne_none.2 hne] at h
  | nres =>
    refine .inr ⟨rfl, ?_⟩
    by_contra hne
    simp [fieldsOf, Instr.illFormed?, Option.isSome_iff_ne_none.2 hne] at h
  | _ => cases h

/-- A word of a row's form that is refused fails a value check. -/
theorem illFormed_of_form {w : Word} {r : OpRow} {e : DecodeError} (hr : r ∈ opcodeMap) (hform : w &&& r.mask = r.pattern)
    (h : decode w = .error e) : ∃ why, (fieldsOf r.op w).illFormed? = some why := by
  rw [decode_of_form hr hform] at h
  cases hchecks : (fieldsOf r.op w).illFormed? with
  | none => rw [hchecks] at h; cases h
  | some why => exact ⟨why, rfl⟩

/-- A refused word is of one of the four kinds of R87: it has no row's form, or fails one of the two value checks. -/
theorem illegalWord_of_decode {w : Word} {e : DecodeError} (h : decode w = .error e) : IllegalWord w := by
  by_cases hop : ∀ r ∈ opcodeMap, opField w ≠ opField r.pattern
  · exact .inl hop
  push Not at hop
  obtain ⟨r, hr, hop⟩ := hop
  by_cases hform : w &&& r.mask = r.pattern
  · obtain ⟨why, hwhy⟩ := illFormed_of_form hr hform h
    rcases illFormed?_fieldsOf hwhy with ⟨hrow, hcsr⟩ | ⟨hrow, hnote⟩
    · obtain rfl := row_of_op r hr (rowFor (.rdcsr .x0 0)) (rowFor_mem _) hrow
      refine .inr (.inr (.inl ⟨hform, ?_⟩))
      rw [← csrOfNumber_isSome_iff, hcsr]
      decide
    · obtain rfl := row_of_op r hr (rowFor (.nres .x0 0 0)) (rowFor_mem _) hrow
      obtain ⟨hname, hoct⟩ := (noteOfFields_eq_none_iff _ _).1 hnote
      refine .inr (.inr (.inr ⟨hform, ?_⟩))
      have hlt := (w.extractLsb' 8 4).isLt
      by_cases h15 : (w.extractLsb' 8 4).toNat = 15
      · exact .inr (.inr (.inr ⟨h15, hoct h15⟩))
      · omega
  · exact .inr (.inl ⟨r, hr, hop, hform⟩)

/-- Settles O6: each of the four kinds is refused, and a refused word is of one of them. -/
theorem illegalWordsAreExactlyTheFourKinds : Obligations.IllegalWordsAreExactlyTheFourKinds :=
  fun _ => ⟨fun ⟨_, h⟩ => illegalWord_of_decode h, decode_of_illegalWord⟩

/-- Settles O7: each of the seven words decodes by computation. -/
theorem workedWordsDecode : Obligations.WorkedWordsDecode := by
  refine ⟨?_, ?_, ?_, ?_, ?_, ?_, ?_⟩ <;> decide

/-! ## The step of a command word -/

/-- Settles O8: what decodes is well-formed, and the step of its word is its meaning. -/
theorem stepRunsTheDecodedCommand : Obligations.StepRunsTheDecodedCommand :=
  fun _ _ _ _ hin hd => ⟨(decode_ok hd).1, step_cmd hin hd⟩

/-- Presenting the word of a well-formed command executes the command. -/
theorem step_encode {s : State} {i : Instr} {rest : List Input} (hwf : i.wellFormed)
    (hin : s.inputs = .cmd (encode i) :: rest) : step s = exec i { s with inputs := rest } :=
  step_cmd hin (decode_encode hwf)

/-- A second write of one register leaves no trace of the first. -/
theorem State.respond_writeX_respond_writeX (s : State) (r : Reg) (u v w w' : Word) (es es' : List Event) :
    (((s.writeX r u).respond w es).writeX r v).respond w' es' = (s.writeX r v).respond w' es' := by
  cases r <;> rfl

/-- The low half of `LI` put below the high half is the constant (R91). -/
theorem high_half_append_low_half (v : Word) : v.extractLsb' 16 16 ++ v.extractLsb' 0 16 = v := by
  refine BitVec.eq_of_toNat_eq ?_
  simp only [toNat_append_eq_mul_add, BitVec.extractLsb'_toNat, Nat.shiftRight_eq_div_pow]
  omega

/-- Two presented commands run one after the other. -/
theorem run_two_commands {s t u : State} {i j : Instr} {rest : List Input} (hi : i.wellFormed) (hj : j.wellFormed)
    (hin : s.inputs = .cmd (encode i) :: .cmd (encode j) :: rest)
    (hexec : exec i { s with inputs := .cmd (encode j) :: rest } = .next t) (ht : t.inputs = .cmd (encode j) :: rest)
    (hexec' : exec j { t with inputs := rest } = .next u) : core.run 2 s = .next u :=
  (run_succ ((step_encode hi hin).trans hexec) 1).trans (run_succ ((step_encode hj ht).trans hexec') 0)

/-- The two words of `LI` leave what one write of the constant leaves. -/
theorem run_pseudoLi {rd : Reg} {v : Word} {s : State} {rest : List Input}
    (hin : s.inputs = (assemble (pseudoLi rd v)).map Input.cmd ++ rest) :
    core.run 2 s = .next ((({ s with inputs := rest } : State).writeX rd v).respond 0 []) := by
  have hldl : exec (.ldl rd (v.extractLsb' 0 16))
      ((({ s with inputs := rest } : State).writeX rd (v.extractLsb' 16 16 ++ 0#16)).respond 0 []) =
      .next ((({ s with inputs := rest } : State).writeX rd v).respond 0 []) := by
    rw [exec_ldl, State.respond_writeX_respond_writeX, State.readX_respond, State.readX_writeX_same,
      BitVec.extractLsb'_append_eq_left, high_half_append_low_half]
  exact run_two_commands (i := .ldh rd _) rfl rfl hin (exec_ldh ..) rfl hldl

/-- Settles O22: the two steps leave what one write of the constant leaves. -/
theorem loadImmediateLoadsTheConstant : Obligations.LoadImmediateLoadsTheConstant := by
  intro rd v s rest hin
  obtain ⟨hread, _, hframe, htable⟩ := ({ s with inputs := rest } : State).writeX_respond_effect rd v
  exact ⟨_, run_pseudoLi hin, hread, hframe, htable⟩

end Sys2Proof.Machine

/-! SUPPORT. Proofs about the invariant of R44 and the steps that write nothing or only the pins: the reset values, the
fields the invariant rests on and the four operations that touch them (spec/10_state.md R23, R33 to R36, R44, R45;
70_reset_and_hazards.md R300). -/
namespace Sys2Proof.Machine

/-! ## The fields of the control registers -/

/-- Settles O19: each flag is one bit of the concatenation. -/
theorem statusHoldsTheFiveFlags : Obligations.StatusHoldsTheFiveFlags := by
  intro s
  simp only [State.readCsr, State.statusWord, State.flag, toNat_append_eq_mul_add, BitVec.toNat_ofBool, BitVec.toNat_ofNat]
  omega

/-- The fields of a callback slot's word (R36). -/
theorem Slot.word_toNat (c : Slot) : c.word.toNat = c.handle.toNat + 2 ^ 16 * c.valid.toNat := by
  simp only [Slot.word, toNat_append_eq_mul_add, BitVec.toNat_ofBool, BitVec.toNat_ofNat]
  omega

/-- Settles O20: each register is its fields' concatenation. -/
theorem decoderRegistersHoldTheirFields : Obligations.DecoderRegistersHoldTheirFields := by
  intro s
  refine ⟨?_, ?_, s.readCsr_pinsel_toNat, s.cbCw.word_toNat, s.cbCcw.word_toNat⟩
  · rw [State.readCsr, toNat_append_eq_mul_add, dirBit_toNat, BitVec.toNat_zero, Nat.zero_mul, Nat.zero_add]
  · cases hq : s.qs <;> simp only [State.readCsr, hq] <;> rfl

/-! ## Steps that run no command -/

/-- A step with no input waiting. -/
theorem step_nil {s : State} (h : s.inputs = []) : step s = .next s.quiet := by
  simp only [step, takeInput, h]

/-- Settles O10: such a step only clears the outputs. -/
theorem nothingHappensWithoutAnInput : Obligations.NothingHappensWithoutAnInput :=
  fun s hin => ⟨_, step_nil hin, s.unchangedBut_quiet, fun _ => rfl, rfl, rfl, rfl⟩

/-- Settles O11: such a step only writes the levels and clears the outputs. -/
theorem pinsInputOnlySetsTheLevels : Obligations.PinsInputOnlySetsTheLevels :=
  fun s levels rest hin => ⟨_, step_pins hin, rfl, rfl,
    State.unchangedBut_quiet { s with din := levels, inputs := rest }, fun _ => rfl, rfl, rfl, rfl⟩

/-! ## The reset values -/

/-- Settles O53: the reset step copies the pins and the inputs, and its other fields are those right after reset. -/
theorem resetStepKeepsTheInputs : Obligations.ResetStepKeepsTheInputs :=
  fun _ _ hin => ⟨_, step_rst hin, rfl, rfl, rfl⟩

/-- Settles O54: the values of R45 register by register, and no event. -/
theorem resetStateHasTheResetValues : Obligations.ResetStateHasTheResetValues :=
  fun p => ⟨State.readCsr_resetWith_status p, fun _ hc => State.readCsr_resetWith_eq_zero p hc, rfl, rfl,
    State.eventLines_of_no_event rfl⟩

/-! ## The invariant -/

/-- The fields the invariant speaks of. -/
def State.invView (s : State) : Params × Memory × Bool × Word × Bool × Word × Word :=
  (s.cfg, s.ft, s.tv, s.refPitch, s.sil, s.period, s.duty)

/-- The invariant rests on those fields alone. -/
theorem Inv.of_invView_eq {s t : State} (h : Inv s) (hview : t.invView = s.invView) : Inv t := by
  simp only [State.invView, Prod.mk.injEq] at hview
  obtain ⟨hcfg, hft, htv, href, hsil, hperiod, hduty⟩ := hview
  obtain ⟨hlegal, htable, hpitch, hrange, hhalf⟩ := h
  refine ⟨by rwa [hcfg], ?_, ?_, ?_, by rwa [hduty, hperiod]⟩
  · rwa [TableWf, hft, hcfg]
  · rwa [TableMatchesPitch, hcfg, hft, htv, href]
  · rwa [PeriodInRange, hcfg, hsil, hperiod]

theorem inv_resetWith {p : Params} (h : p.legal) : Inv (State.resetWith p) where
  legal := h
  table := ⟨List.Pairwise.nil, fun _ he => absurd he List.not_mem_nil⟩
  pitch := ⟨fun htv => absurd htv Bool.false_ne_true, fun _ => rfl⟩
  period := fun hsil => absurd hsil.symm Bool.false_ne_true
  duty := by simp [State.resetWith]

/-- Settles O55: right after reset the table is empty, the output silenced, and period and duty are 0. -/
theorem invariantHoldsAtReset : Obligations.InvariantHoldsAtReset :=
  ⟨fun _ h => inv_resetWith h, inv_resetWith (by decide)⟩

section Operations
variable {s : State}

theorem Inv.resetStep (h : Inv s) : Inv s.resetStep :=
  (inv_resetWith h.legal).of_invView_eq rfl

/-- A build lists only indices of the table, and every word is that of the new pitch. -/
theorem Inv.buildTable (h : Inv s) (ref : Word) : Inv (s.buildTable ref) where
  legal := h.legal
  table := by
    obtain ⟨hwf, hindex⟩ := h.table
    exact ⟨Memory.wf_writeAll hwf _, fun e he => (Memory.mem_writeAll he).elim tableEntries_index_lt (hindex e)⟩
  pitch := ⟨fun _ _ ho _ hs => s.read_buildTable ref ho hs, fun htv => absurd htv.symm Bool.false_ne_true⟩
  period := h.period
  duty := h.duty

theorem Inv.silence (h : Inv s) : Inv s.silence where
  legal := h.legal
  table := h.table
  pitch := h.pitch
  period := fun hsil => absurd hsil.symm Bool.false_ne_true
  duty := h.duty

/-- A calculated period is clamped to the timer's range (R162). -/
theorem periodOf_mem_range {p : Params} (h : p.legal) (freq : Word) :
    p.perMin ≤ periodOf p freq ∧ periodOf p freq ≤ p.perMax := by
  obtain ⟨_, _, _, _, _, ⟨hrange, _⟩, _⟩ := h
  exact ⟨le_min (le_max_right _ _) hrange, min_le_right _ _⟩

theorem Inv.loadPeriod (h : Inv s) (freq : Word) : Inv (s.loadPeriod (BitVec.ofNat 32 (periodOf s.cfg freq))) where
  legal := h.legal
  table := h.table
  pitch := h.pitch
  period := fun _ => by
    rw [State.loadPeriod_period, periodOf_toNat h.legal]
    exact periodOf_mem_range h.legal freq
  duty := dutyOf_toNat _

theorem Inv.tickStep (h : Inv s) : Inv s.tickStep := by
  rcases State.tickStep_cases s with ⟨_, ht⟩ | ⟨_, _, _, ht⟩ | ⟨_, _, _, _, ht⟩ <;> exact h.of_invView_eq (by rw [ht]; rfl)

end Operations

/-- A command keeps the invariant: `FTBUILD` and `PCALC` write what it speaks of, every other command leaves it. -/
theorem exec_keeps_inv {i : Instr} {s t : State} (hinv : Inv s) (h : exec i s = .next t) : Inv t := by
  rcases exec_cases h with ⟨_, rfl, _⟩ | ⟨_, _, rfl, _⟩ | ⟨rfl, _⟩ | ⟨rs, _, rfl⟩ | ⟨_, _, _, _, _, _, _, _, _, _, rfl⟩ |
    ⟨_, _, _, rfl⟩ | ⟨rs, _, _, _, rfl, rfl⟩ | ⟨_, _, _, rfl⟩ | ⟨d, handle, _, rfl⟩ | ⟨_, rfl⟩ | ⟨_, rfl⟩
  case inr.inr.inr.inl => exact (hinv.buildTable (s.readX rs)).of_invView_eq rfl
  case inr.inr.inr.inr.inr.inl => exact hinv.silence.of_invView_eq rfl
  case inr.inr.inr.inr.inr.inr.inl => exact (hinv.loadPeriod (s.readX rs)).of_invView_eq rfl
  all_goals exact hinv.of_invView_eq (by simp [State.invView])

/-- Settles O56: the invariant is kept by every kind of step. -/
theorem everyStepKeepsTheInvariant : Obligations.EveryStepKeepsTheInvariant := by
  intro s t hinv h
  have hrest (rest : List Input) : Inv { s with inputs := rest } := hinv.of_invView_eq rfl
  rcases step_cases s with ⟨_, hs⟩ | ⟨rest, _, hs⟩ | ⟨rest, _, hs⟩ | ⟨_, rest, _, hs⟩ | ⟨_, rest, _, _, _, hs⟩ |
    ⟨_, rest, _, _, _, hs⟩ <;> rw [hs] at h
  case inr.inr.inr.inr.inr => exact exec_keeps_inv (hrest rest) h
  all_goals cases h
  · exact hinv.of_invView_eq rfl
  · exact (hrest rest).resetStep
  · exact (hrest rest).tickStep
  · exact hinv.of_invView_eq rfl
  · exact hinv.of_invView_eq rfl

end Sys2Proof.Machine

/-! SUPPORT. Proofs about who writes what: the general register, the flags and the control registers each command may
change, and from them which steps can change a given one (spec/10_state.md R21, R24 to R37, R44). -/
namespace Sys2Proof.Machine

/-! ## The writes of a command -/

/-- The flags a well-formed command may change (R24 to R27). -/
def flagWrites : Instr → List Flag
  | .ftbuild _ => [.tv]
  | .pcalc _ => [.sil]
  | .qinit _ _ => [.qi, .en]
  | .qen | .qdis => [.en]
  | .nop | .ldh _ _ | .ldl _ _ | .rdx _ | .rdcsr _ _ | .nres _ _ _ | .qatt _ _ => []

/-- The control register of a direction's callback slot (R36). -/
def slotCsr (d : Dir) : Csr := if d = .cw then .cbcw else .cbccw

/-- The control registers but `STATUS` a well-formed command may change (R29 to R36). -/
def csrWrites : Instr → List Csr
  | .ftbuild _ => [.refpitch]
  | .pcalc _ => [.period, .duty]
  | .qinit _ _ => [.pinsel, .tc, .dir, .qstate]
  | .qatt d _ => [slotCsr d]
  | .qen => [.qstate]
  | .nop | .ldh _ _ | .ldl _ _ | .rdx _ | .rdcsr _ _ | .nres _ _ _ | .qdis => []

theorem UnchangedBut.mono {regs regs' : List Reg} {flags flags' : List Flag} {csrs csrs' : List Csr} {s t : State}
    (h : UnchangedBut regs flags csrs s t) (hregs : regs ⊆ regs') (hflags : flags ⊆ flags') (hcsrs : csrs ⊆ csrs') :
    UnchangedBut regs' flags' csrs' s t := by
  obtain ⟨hx, hflag, hcsr, hrest⟩ := h
  exact ⟨fun r hr => hx r fun h => hr (hregs h), fun f hf => hflag f fun h => hf (hflags h),
    fun c hc hc' => hcsr c hc fun h => hc' (hcsrs h), hrest⟩

/-- The frame of a well-formed command, whichever it is. -/
theorem exec_unchangedBut {i : Instr} {s t : State} (hwf : i.wellFormed) (h : exec i s = .next t) :
    UnchangedBut (destination i) (flagWrites i) (csrWrites i) s t := by
  rcases exec_cases h with ⟨_, rfl, rfl | ⟨_, rfl, _⟩⟩ | ⟨r, v, rfl, ⟨_, rfl⟩ | ⟨_, rfl⟩ | ⟨_, rfl⟩ | ⟨_, _, rfl⟩⟩ |
    ⟨_, hill⟩ | ⟨_, rfl, rfl⟩ | ⟨r, _, _, _, _, v, rfl, _, _, _, rfl⟩ | ⟨_, rfl, _, rfl⟩ | ⟨_, _, rfl, _, _, rfl⟩ |
    ⟨_, _, rfl, rfl⟩ | ⟨_, _, rfl, rfl⟩ | ⟨rfl, rfl⟩ | ⟨rfl, rfl⟩
  iterate 2 exact (UnchangedBut.refl s).respond _ _
  iterate 4 exact (s.unchangedBut_writeX r v).respond _ _
  · exact absurd hwf hill
  · exact (s.unchangedBut_buildTable _).respond _ _
  · exact (({ s with free := s.free + 1 } : State).unchangedBut_writeX r v).respond _ _
  · exact (s.unchangedBut_silence.respond _ _).mono (List.Subset.refl _) (List.Subset.refl _) (List.nil_subset _)
  · exact (s.unchangedBut_loadPeriod _).respond _ _
  · exact (s.unchangedBut_initDecoder _ _).respond _ _
  · exact (s.unchangedBut_setSlot _ _).respond _ _
  · exact s.unchangedBut_enableDecoder.respond _ _
  · exact s.unchangedBut_disableDecoder.respond _ _

/-- Settles O58: a register that changes is the one written, and a table word that changes is one of a build. -/
theorem onlyTheirCommandsWriteRegistersAndTable : Obligations.OnlyTheirCommandsWriteRegistersAndTable := by
  intro i s t h
  rcases exec_cases h with ⟨_, rfl, _⟩ | ⟨r, v, rfl, hi⟩ | ⟨rfl, _⟩ | ⟨rs, hi, rfl⟩ |
    ⟨r, name, oct, _, _, v, hi, _, _, _, rfl⟩ | ⟨_, _, _, rfl⟩ | ⟨_, _, _, _, _, rfl⟩ | ⟨_, _, _, rfl⟩ | ⟨_, _, _, rfl⟩ |
    ⟨_, rfl⟩ | ⟨_, rfl⟩
  case inr.inl =>
    refine ⟨fun r' hr' => ?_, fun _ hk => absurd rfl hk⟩
    obtain rfl : r' = r := by
      by_contra hne
      exact hr' (by rw [State.readX_respond, State.readX_writeX_other _ hne])
    exact hi
  case inr.inr.inr.inl => exact ⟨fun _ hr => absurd (by simp) hr, fun _ _ => ⟨rs, hi⟩⟩
  case inr.inr.inr.inr.inl =>
    refine ⟨fun r' hr' => ?_, fun _ hk => absurd rfl hk⟩
    obtain rfl : r' = r := by
      by_contra hne
      exact hr' (by rw [State.readX_respond, State.readX_writeX_other _ hne]; cases r' <;> rfl)
    exact .inr (.inr (.inr ⟨name, oct, hi⟩))
  all_goals exact ⟨fun _ hr => absurd (by simp) hr, fun _ hk => absurd (by simp) hk⟩

/-! ## The writers of a flag and of a control register -/

/-- The frame of a tick. -/
theorem State.tickStep_unchangedBut (s : State) : UnchangedBut [] [] [.tc, .dir, .qstate] s s.tickStep := by
  rcases State.tickStep_cases s with ⟨_, ht⟩ | ⟨_, _, _, ht⟩ | ⟨_, _, _, _, ht⟩ <;> rw [ht]
  · exact s.unchangedBut_quiet.mono (List.Subset.refl _) (List.Subset.refl _) (List.nil_subset _)
  · exact s.unchangedBut_decoderMove ..
  · exact s.unchangedBut_decoderMove ..

section Changes
variable {s t : State}

/-- A flag that changes in a step other than a reset: an illegal word changes `ILL`, a legal one what its command writes. -/
theorem step_changes_flag (h : step s = .next t) (hrst : ∀ rest, s.inputs ≠ .rst :: rest) {f : Flag}
    (hf : t.flag f ≠ s.flag f) : ∃ w rest, s.inputs = .cmd w :: rest ∧
      ((∃ e, decode w = .error e ∧ f = .ill) ∨ ∃ i, decode w = .ok i ∧ f ∈ flagWrites i) := by
  have hrest (rest : List Input) : ({ s with inputs := rest } : State).flag f = s.flag f := by cases f <;> rfl
  rcases step_cases s with ⟨_, hs⟩ | ⟨rest, hin, _⟩ | ⟨rest, _, hs⟩ | ⟨_, rest, _, hs⟩ | ⟨w, rest, e, hin, hd, hs⟩ |
    ⟨w, rest, i, hin, hd, hs⟩
  · cases hs.symm.trans h
    exact absurd (s.flag_quiet f) hf
  · exact absurd hin (hrst rest)
  · cases hs.symm.trans h
    obtain ⟨_, hflag, _⟩ := State.tickStep_unchangedBut { s with inputs := rest }
    exact absurd ((hflag f List.not_mem_nil).trans (hrest rest)) hf
  · cases hs.symm.trans h
    exact absurd ((State.flag_setPins _ _ f).trans (hrest rest)) hf
  · cases hs.symm.trans h
    refine ⟨w, rest, hin, .inl ⟨e, hd, ?_⟩⟩
    by_contra hne
    exact hf ((State.flag_illegalCommand_other _ hne).trans (hrest rest))
  · obtain ⟨_, hflag, _⟩ := exec_unchangedBut (decode_ok hd).1 (hs.symm.trans h)
    refine ⟨w, rest, hin, .inr ⟨i, hd, ?_⟩⟩
    by_contra hnot
    exact hf ((hflag f hnot).trans (hrest rest))

/-- A control register but `STATUS` that changes in a step other than a reset: a tick of an enabled decoder changes the count,
the direction or the state, a legal command what it writes. -/
theorem step_changes_csr (h : step s = .next t) (hrst : ∀ rest, s.inputs ≠ .rst :: rest) {c : Csr} (hst : c ≠ .status)
    (hc : t.readCsr c ≠ s.readCsr c) :
    (∃ rest, s.inputs = .tick :: rest ∧ s.en = true ∧ t = ({ s with inputs := rest } : State).tickStep ∧
      c ∈ [Csr.tc, .dir, .qstate]) ∨
    ∃ w rest i, s.inputs = .cmd w :: rest ∧ decode w = .ok i ∧ exec i { s with inputs := rest } = .next t ∧
      c ∈ csrWrites i := by
  have hrest (rest : List Input) : ({ s with inputs := rest } : State).readCsr c = s.readCsr c := by cases c <;> rfl
  rcases step_cases s with ⟨_, hs⟩ | ⟨rest, hin, _⟩ | ⟨rest, hin, hs⟩ | ⟨_, rest, _, hs⟩ | ⟨w, rest, e, hin, hd, hs⟩ |
    ⟨w, rest, i, hin, hd, hs⟩
  · cases hs.symm.trans h
    exact absurd (s.readCsr_quiet c) hc
  · exact absurd hin (hrst rest)
  · cases hs.symm.trans h
    refine .inl ⟨rest, hin, ?_, rfl, ?_⟩
    · by_contra hen
      rw [State.tickStep_of_disabled (s := { s with inputs := rest }) (by simpa using hen), State.readCsr_quiet] at hc
      exact hc (hrest rest)
    · obtain ⟨_, _, hcsr, _⟩ := State.tickStep_unchangedBut { s with inputs := rest }
      by_contra hnot
      exact hc ((hcsr c hst hnot).trans (hrest rest))
  · cases hs.symm.trans h
    exact absurd ((State.readCsr_setPins _ _ c).trans (hrest rest)) hc
  · cases hs.symm.trans h
    exact absurd ((State.readCsr_illegalCommand _ hst).trans (hrest rest)) hc
  · obtain ⟨_, _, hcsr, _⟩ := exec_unchangedBut (decode_ok hd).1 (hs.symm.trans h)
    refine .inr ⟨w, rest, i, hin, hd, hs.symm.trans h, ?_⟩
    by_contra hnot
    exact hc ((hcsr c hst hnot).trans (hrest rest))

end Changes

/-! ## Which commands write a given flag or control register -/

section Writers
variable {i : Instr}

theorem mem_flagWrites_tv : .tv ∈ flagWrites i ↔ ∃ rs, i = .ftbuild rs := by cases i <;> simp [flagWrites]
theorem mem_flagWrites_sil : .sil ∈ flagWrites i ↔ ∃ rs, i = .pcalc rs := by cases i <;> simp [flagWrites]
theorem mem_flagWrites_qi : .qi ∈ flagWrites i ↔ ∃ a b, i = .qinit a b := by cases i <;> simp [flagWrites]
theorem mem_flagWrites_en : .en ∈ flagWrites i ↔ i = .qen ∨ i = .qdis ∨ ∃ a b, i = .qinit a b := by
  cases i <;> simp [flagWrites]
theorem not_mem_flagWrites_ill : .ill ∉ flagWrites i := by cases i <;> simp [flagWrites]

theorem slotCsr_ne {c : Csr} (hcw : c ≠ .cbcw) (hccw : c ≠ .cbccw) (d : Dir) : c ≠ slotCsr d := by
  cases d <;> assumption

theorem slotCsr_inj {d d' : Dir} : slotCsr d = slotCsr d' ↔ d = d' := by
  cases d <;> cases d' <;> decide

theorem mem_csrWrites_refpitch : .refpitch ∈ csrWrites i ↔ ∃ rs, i = .ftbuild rs := by
  cases i <;> simp [csrWrites, slotCsr_ne]
theorem mem_csrWrites_period : .period ∈ csrWrites i ↔ ∃ rs, i = .pcalc rs := by
  cases i <;> simp [csrWrites, slotCsr_ne]
theorem mem_csrWrites_duty : .duty ∈ csrWrites i ↔ ∃ rs, i = .pcalc rs := by
  cases i <;> simp [csrWrites, slotCsr_ne]
theorem mem_csrWrites_pinsel : .pinsel ∈ csrWrites i ↔ ∃ a b, i = .qinit a b := by
  cases i <;> simp [csrWrites, slotCsr_ne]
theorem mem_csrWrites_tc : .tc ∈ csrWrites i ↔ ∃ a b, i = .qinit a b := by
  cases i <;> simp [csrWrites, slotCsr_ne]
theorem mem_csrWrites_dir : .dir ∈ csrWrites i ↔ ∃ a b, i = .qinit a b := by
  cases i <;> simp [csrWrites, slotCsr_ne]
theorem mem_csrWrites_qstate : .qstate ∈ csrWrites i ↔ i = .qen ∨ ∃ a b, i = .qinit a b := by
  cases i <;> simp [csrWrites, slotCsr_ne]
theorem mem_csrWrites_slotCsr {d : Dir} : slotCsr d ∈ csrWrites i ↔ ∃ handle, i = .qatt d handle := by
  cases i with
  | qatt d' handle => simp [csrWrites, slotCsr_inj, eq_comm]
  | _ => cases d <;> simp [csrWrites, slotCsr]

end Writers

/-- The next input is the word of a command of which `P` holds. -/
def CommandArrives (s : State) (P : Instr → Prop) : Prop :=
  ∃ w rest i, s.inputs = .cmd w :: rest ∧ decode w = .ok i ∧ P i

theorem CommandArrives.imp {s : State} {P Q : Instr → Prop} (h : CommandArrives s P) (hPQ : ∀ {i}, P i → Q i) :
    CommandArrives s Q := by
  obtain ⟨w, rest, i, hin, hd, hi⟩ := h
  exact ⟨w, rest, i, hin, hd, hPQ hi⟩

section Step
variable {s t : State}

/-- A flag but `ILL` changes only by a command that writes it. -/
theorem commandArrives_of_flag_changed (h : step s = .next t) (hrst : ∀ rest, s.inputs ≠ .rst :: rest) {f : Flag}
    (hill : f ≠ .ill) (hf : t.flag f ≠ s.flag f) : CommandArrives s (f ∈ flagWrites ·) := by
  obtain ⟨w, rest, hin, ⟨_, _, hf⟩ | ⟨i, hd, hi⟩⟩ := step_changes_flag h hrst hf
  · exact absurd hf hill
  · exact ⟨w, rest, i, hin, hd, hi⟩

/-- A control register but `STATUS` that no tick writes changes only by a command that writes it. -/
theorem commandArrives_of_csr_changed (h : step s = .next t) (hrst : ∀ rest, s.inputs ≠ .rst :: rest) {c : Csr}
    (hc : c ∉ [Csr.status, .tc, .dir, .qstate]) (hne : t.readCsr c ≠ s.readCsr c) :
    CommandArrives s (c ∈ csrWrites ·) := by
  obtain ⟨hst, htick⟩ := not_or.1 (List.mem_cons.not.1 hc)
  rcases step_changes_csr h hrst hst hne with ⟨_, _, _, _, hmem⟩ | ⟨w, rest, i, hin, hd, _, hi⟩
  · exact absurd hmem htick
  · exact ⟨w, rest, i, hin, hd, hi⟩

/-! ## The decoder's count, direction and state -/

/-- A tick that changes the count or the direction commits (R190). -/
theorem State.tickStep_of_count_changed (h : s.tickStep.tc ≠ s.tc ∨ s.tickStep.dir ≠ s.dir) :
    ∃ d, s.qs = commitState d ∧ s.tickStep.qs = .start ∧ s.tickStep.tc = countCommit s.tc d ∧ s.tickStep.dir = d := by
  rcases State.tickStep_cases s with ⟨_, ht⟩ | ⟨_, _, _, ht⟩ | ⟨_, q, d, hq, ht⟩ <;> rw [ht] at h ⊢
  iterate 2 · exact absurd h (by simp)
  · obtain ⟨hqs, hstart⟩ := (qnext_commit_iff ..).1 (congrArg Prod.snd hq)
    rw [hq] at hstart
    exact ⟨d, hqs, hstart, rfl, rfl⟩

/-- A step that changes the count or the direction and is no reset is a commit or a `QINIT`. -/
theorem step_changes_count (h : step s = .next t) (hrst : ∀ rest, s.inputs ≠ .rst :: rest)
    (hne : t.readCsr .tc ≠ s.readCsr .tc ∨ t.readCsr .dir ≠ s.readCsr .dir) :
    (∃ rest d, s.inputs = .tick :: rest ∧ s.en = true ∧ s.qs = commitState d ∧ t.qs = .start ∧
      t.tc = countCommit s.tc d ∧ t.dir = d) ∨
    (∃ w pina pinb rest, s.inputs = .cmd w :: rest ∧ decode w = .ok (.qinit pina pinb) ∧ t.tc = 0) := by
  obtain ⟨c, hmem, hc⟩ : ∃ c ∈ [Csr.tc, .dir], t.readCsr c ≠ s.readCsr c := by simpa using hne
  have hst : c ≠ .status := by rintro rfl; exact absurd hmem (by decide)
  rcases step_changes_csr h hrst hst hc with ⟨rest, hin, hen, rfl, _⟩ | ⟨w, rest, i, hin, hd, hexec, hi⟩
  · have hchanged : (State.tickStep { s with inputs := rest }).tc ≠ s.tc ∨
        (State.tickStep { s with inputs := rest }).dir ≠ s.dir := by
      refine hne.imp id fun hdir heq => hdir ?_
      simp only [State.readCsr, heq]
    obtain ⟨d, hcommit⟩ := State.tickStep_of_count_changed (s := { s with inputs := rest }) hchanged
    exact .inl ⟨rest, d, hin, hen, hcommit⟩
  · obtain ⟨a, b, rfl⟩ : ∃ a b, i = .qinit a b := by
      simp only [List.mem_cons, List.not_mem_nil, or_false] at hmem
      rcases hmem with rfl | rfl
      · exact mem_csrWrites_tc.1 hi
      · exact mem_csrWrites_dir.1 hi
    rw [exec_qinit] at hexec
    cases hexec
    exact .inr ⟨w, a, b, rest, hin, hd, rfl⟩

/-- Settles O44: a change of the count is a commit, a `QINIT` or a reset, each with its value. -/
theorem countChangesOnlyAtCommitOrInit : Obligations.CountChangesOnlyAtCommitOrInit := by
  intro s t h hne
  by_cases hrst : ∃ rest, s.inputs = .rst :: rest
  · obtain ⟨rest, hin⟩ := hrst
    rw [step_rst hin] at h
    cases h
    exact .inr (.inr ⟨rest, hin, rfl⟩)
  · rcases step_changes_count h (not_exists.1 hrst) (.inl hne) with
      ⟨rest, d, hin, hen, hqs, hstart, htc, hdir⟩ | ⟨w, a, b, rest, hin, hd, htc⟩
    · refine .inl ⟨rest, hin, hen, hstart, ?_⟩
      cases d with
      | cw => exact .inl ⟨hqs, htc, hdir⟩
      | ccw => exact .inr ⟨hqs, htc, hdir⟩
    · exact .inr (.inl ⟨w, a, b, rest, hin, hd, htc⟩)

/-- A step that changes `QSTATE` and is no reset is a tick of an enabled decoder, a `QEN` of a disabled one or a `QINIT`. -/
theorem step_changes_qstate (h : step s = .next t) (hrst : ∀ rest, s.inputs ≠ .rst :: rest)
    (hne : t.readCsr .qstate ≠ s.readCsr .qstate) :
    ((∃ rest, s.inputs = .tick :: rest) ∧ s.en = true) ∨
    (∃ w rest, s.inputs = .cmd w :: rest ∧
      ((decode w = .ok .qen ∧ s.en = false) ∨ ∃ pina pinb, decode w = .ok (.qinit pina pinb))) := by
  rcases step_changes_csr h hrst (by decide) hne with ⟨rest, hin, hen, _⟩ | ⟨w, rest, i, hin, hd, hexec, hi⟩
  · exact .inl ⟨⟨rest, hin⟩, hen⟩
  · rcases mem_csrWrites_qstate.1 hi with rfl | ⟨a, b, rfl⟩
    · refine .inr ⟨w, rest, hin, .inl ⟨hd, ?_⟩⟩
      rw [exec_qen] at hexec
      cases hexec
      by_contra hen
      have hen : s.en = true := by simpa using hen
      exact hne (by simp [State.readCsr, hen])
    · exact .inr ⟨w, rest, hin, .inr ⟨a, b, hd⟩⟩

/-! ## The callback slots -/

theorem State.readCsr_slotCsr (s : State) (d : Dir) : s.readCsr (slotCsr d) = (s.slot d).word := by
  cases d <;> rfl

/-- A slot's word shows both its fields (R36). -/
theorem Slot.word_injective : Function.Injective Slot.word := by
  rintro ⟨v, handle⟩ ⟨v', handle'⟩ h
  have hnum := congrArg BitVec.toNat h
  simp only [Slot.word_toNat] at hnum
  have hlt := handle.isLt
  have hlt' := handle'.isLt
  have hbit : v.toNat = v'.toNat := by omega
  have hvalid : v = v' := by revert hbit; cases v <;> cases v' <;> decide
  have hhandle : handle = handle' := BitVec.eq_of_toNat_eq (by omega)
  rw [hvalid, hhandle]

/-- A slot that changes in a step other than a reset is filled by a `QATT` of its direction. -/
theorem step_changes_slot (h : step s = .next t) (hrst : ∀ rest, s.inputs ≠ .rst :: rest) {d : Dir}
    (hne : t.slot d ≠ s.slot d) :
    ∃ w handle rest, s.inputs = .cmd w :: rest ∧ decode w = .ok (.qatt d handle) := by
  have hcsr : t.readCsr (slotCsr d) ≠ s.readCsr (slotCsr d) := by
    rw [State.readCsr_slotCsr, State.readCsr_slotCsr]
    exact Slot.word_injective.ne hne
  obtain ⟨w, rest, i, hin, hd, hi⟩ := commandArrives_of_csr_changed h hrst (by cases d <;> decide) hcsr
  obtain ⟨handle, rfl⟩ := mem_csrWrites_slotCsr.1 hi
  exact ⟨w, handle, rest, hin, hd⟩

end Step

/-- Settles O59: the writers of each flag and control register, among the writes of the commands, an illegal word and a
tick. -/
theorem onlyTheirWritersChangeControlRegisters : Obligations.OnlyTheirWritersChangeControlRegisters := by
  intro s t h hrst
  refine ⟨fun hne => ?_, fun hne => ?_, fun hne => ?_, fun hf => ?_, fun hf => ?_, fun hne => ?_,
    step_changes_qstate h hrst, fun d => step_changes_slot h hrst,
    fun _ hc => State.readCsr_config_of_cfg_eq (step_keeps_cfg h) hc⟩
  · obtain ⟨w, rest, _, hin, hd, rs, rfl⟩ : CommandArrives s fun i => ∃ rs, i = .ftbuild rs := by
      rcases hne with hc | hf
      · exact (commandArrives_of_csr_changed h hrst (by decide) hc).imp mem_csrWrites_refpitch.1
      · exact (commandArrives_of_flag_changed h hrst (by decide) hf).imp mem_flagWrites_tv.1
    exact ⟨w, rs, rest, hin, hd⟩
  · obtain ⟨w, rest, _, hin, hd, rs, rfl⟩ : CommandArrives s fun i => ∃ rs, i = .pcalc rs := by
      rcases hne with hc | hc | hf
      · exact (commandArrives_of_csr_changed h hrst (by decide) hc).imp mem_csrWrites_period.1
      · exact (commandArrives_of_csr_changed h hrst (by decide) hc).imp mem_csrWrites_duty.1
      · exact (commandArrives_of_flag_changed h hrst (by decide) hf).imp mem_flagWrites_sil.1
    exact ⟨w, rs, rest, hin, hd⟩
  · obtain ⟨w, rest, _, hin, hd, a, b, rfl⟩ : CommandArrives s fun i => ∃ a b, i = .qinit a b := by
      rcases hne with hc | hf
      · exact (commandArrives_of_csr_changed h hrst (by decide) hc).imp mem_csrWrites_pinsel.1
      · exact (commandArrives_of_flag_changed h hrst (by decide) hf).imp mem_flagWrites_qi.1
    exact ⟨w, a, b, rest, hin, hd⟩
  · obtain ⟨w, rest, i, hin, hd, hi⟩ := commandArrives_of_flag_changed h hrst (by decide) hf
    refine ⟨w, rest, hin, ?_⟩
    rcases mem_flagWrites_en.1 hi with rfl | rfl | ⟨a, b, rfl⟩
    · exact .inl hd
    · exact .inr (.inl hd)
    · exact .inr (.inr ⟨a, b, hd⟩)
  · obtain ⟨w, rest, hin, ⟨e, hd, _⟩ | ⟨_, _, hi⟩⟩ := step_changes_flag h hrst hf
    · exact ⟨w, e, rest, hin, hd⟩
    · exact absurd hi not_mem_flagWrites_ill
  · rcases step_changes_count h hrst hne with ⟨rest, d, hin, hen, hqs, hstart, _⟩ | ⟨w, a, b, rest, hin, hd, _⟩
    · refine .inl ⟨⟨rest, hin⟩, hen, ?_, hstart⟩
      cases d with
      | cw => exact .inl hqs
      | ccw => exact .inr hqs
    · exact .inr ⟨w, a, b, rest, hin, hd⟩

/-! ## The bits that fall only at reset (R44 (d), R301) -/

section Sticky
variable {s t : State}

/-- `FTBUILD` sets `TV` and `QINIT` sets `QI`, each the only writer of its flag. -/
theorem exec_sets_flag {i : Instr} {f : Flag} (hf : f ∈ [Flag.tv, .qi]) (hi : f ∈ flagWrites i)
    (h : exec i s = .next t) : t.flag f = true := by
  simp only [List.mem_cons, List.not_mem_nil, or_false] at hf
  rcases hf with rfl | rfl
  · obtain ⟨rs, rfl⟩ := mem_flagWrites_tv.1 hi
    cases (exec_ftbuild rs s).symm.trans h
    rfl
  · obtain ⟨a, b, rfl⟩ := mem_flagWrites_qi.1 hi
    cases (exec_qinit a b s).symm.trans h
    rfl

/-- `TV` and `QI` change only by a command that sets them. -/
theorem step_keeps_flag (h : step s = .next t) (hrst : ∀ rest, s.inputs ≠ .rst :: rest) {f : Flag}
    (hf : f ∈ [Flag.tv, .qi]) (hset : s.flag f = true) : t.flag f = true := by
  by_cases hsame : t.flag f = s.flag f
  · rwa [hsame]
  · have hill : f ≠ .ill := by rintro rfl; exact absurd hf (by decide)
    obtain ⟨w, rest, i, hin, hd, hi⟩ := commandArrives_of_flag_changed h hrst hill hsame
    exact exec_sets_flag hf hi ((step_cmd hin hd).symm.trans h)

/-- A slot changes only by `QATT`, which fills it. -/
theorem step_keeps_valid (h : step s = .next t) (hrst : ∀ rest, s.inputs ≠ .rst :: rest) {d : Dir}
    (hvalid : (s.slot d).valid = true) : (t.slot d).valid = true := by
  by_cases hsame : t.slot d = s.slot d
  · rwa [hsame]
  · obtain ⟨w, handle, rest, hin, hd⟩ := step_changes_slot h hrst hsame
    rw [step_cmd hin hd, exec_qatt] at h
    cases h
    rw [State.slot_respond, State.slot_setSlot_same]

end Sticky

/-- Settles O57: what writes one of these bits sets it. -/
theorem stickyBitsFallOnlyAtReset : Obligations.StickyBitsFallOnlyAtReset := by
  intro s t h hrst
  refine ⟨fun f hf hset => ?_, fun _ hvalid => step_keeps_valid h hrst hvalid⟩
  simp only [List.mem_cons, List.not_mem_nil, or_false] at hf
  rcases hf with rfl | rfl | rfl
  · exact step_keeps_flag h hrst (by decide) hset
  · exact step_keeps_flag h hrst (by decide) hset
  · exact step_keeps_ill h hrst hset

end Sys2Proof.Machine

/-! SUPPORT. Proofs about the caller's contract: within it a command, a tick and every other input but a reset draw no free
value and depend on no register that no command has written (spec/93_implementation_defined.md U1 to U3, U7, U9). -/
namespace Sys2Proof.Machine

/-! ## States that agree on the known registers -/

section Agree
variable {known : List Reg} {s u : State}

theorem AgreeOn.readX {r : Reg} (h : AgreeOn known s u) (hr : r ∈ known) : u.readX r = s.readX r := h.1 r hr

/-- The waiting inputs are none of what may differ. -/
theorem AgreeOn.with_inputs (h : AgreeOn known s u) (rest : List Input) :
    AgreeOn known { s with inputs := rest } { u with inputs := rest } := by
  obtain ⟨x, f, rfl, hk⟩ := agreeOn_iff.1 h
  refine ⟨fun r hr => ?_, rfl⟩
  have hread := hk r hr
  cases r <;> exact hread

end Agree

/-- `t` and `v`, stepped to from `s` and `u`, agree on `known` and used no free value. -/
def AgreeUnused (known : List Reg) (s u t v : State) : Prop :=
  AgreeOn known t v ∧ t.free = s.free ∧ v.free = u.free

section Lift
variable {known : List Reg} {s u : State}

/-- An operation that commutes with a change of the unknown registers and of the counter, and keeps the registers and the
counter, keeps the agreement. -/
theorem AgreeOn.map {op : State → State} (h : AgreeOn known s u)
    (hop : ∀ x f, op (s.withUnknown x f) = (op s).withUnknown x f) (hx : (op s).x = s.x) (hfree : (op s).free = s.free) :
    AgreeUnused known s u (op s) (op u) := by
  obtain ⟨x, f, rfl, hk⟩ := agreeOn_iff.1 h
  rw [hop]
  refine ⟨⟨fun r hr => ?_, rfl⟩, hfree, rfl⟩
  have hread : (op s).readX r = s.readX r := by cases r <;> simp only [State.readX, hx]
  rw [hread, ← hk r hr]
  cases r <;> rfl

/-- Writing one word to one register makes the register known. -/
theorem AgreeOn.writeX (h : AgreeOn known s u) (r : Reg) (v : Word) :
    AgreeUnused (r :: known) s u ((s.writeX r v).respond 0 []) ((u.writeX r v).respond 0 []) := by
  obtain ⟨x, f, rfl, hk⟩ := agreeOn_iff.1 h
  refine ⟨⟨fun r' hr' => ?_, rfl⟩, rfl, rfl⟩
  rw [State.readX_respond, State.readX_respond]
  by_cases hr : r' = r
  · rw [hr, State.readX_writeX_same, State.readX_writeX_same]
  · rw [State.readX_writeX_other _ hr, State.readX_writeX_other _ hr]
    exact hk r' ((List.mem_cons.1 hr').resolve_left hr)

/-- The outputs of a command step are the same in both. -/
theorem AgreeUnused.respond {t v : State} (h : AgreeUnused known s u t v) (w : Word) (es : List Event) :
    AgreeUnused known s u (t.respond w es) (v.respond w es) := by
  obtain ⟨hagree, ht, hv⟩ := h
  obtain ⟨x, f, rfl, hk⟩ := agreeOn_iff.1 hagree
  refine ⟨⟨fun r hr => ?_, rfl⟩, ht, hv⟩
  rw [State.readX_respond, State.readX_respond, hk r hr]

end Lift

/-! ## A command within the contract -/

/-- The three kinds of note fields (R84). -/
theorem noteOfFields_cases (name : BitVec 4) (oct : BitVec 8) :
    noteOfFields name oct = none ∨ noteOfFields name oct = some .rest ∨ name.toNat < 12 := by
  unfold noteOfFields
  split_ifs with _ htone
  · exact .inr (.inl rfl)
  · exact .inr (.inr htone)
  · exact .inl rfl

/-- With `TV = 1` every word of the table is listed (R44 (e)). -/
theorem Inv.read_table {s : State} (h : Inv s) (htv : s.tv = true) {semitone o : Nat} (hs : semitone < 12)
    (ho : o < s.cfg.nOct) : Memory.read s.ft (tableIndex semitone o) = some (tableWord s.cfg s.refPitch semitone o) :=
  h.pitch.1 htv o ho semitone hs

section Command
variable {known : List Reg} {s u : State}

/-- A tone within the contract resolves to the same listed word in both states. -/
theorem exec_nres_agree {name : BitVec 4} {oct : BitVec 8} (hinv : Inv s) (h : AgreeOn known s u) (rd : Reg)
    (hwf : (Instr.nres rd name oct).wellFormed) (hc : CommandInContract s known (.nres rd name oct)) :
    ∃ t v, exec (.nres rd name oct) s = .next t ∧ exec (.nres rd name oct) u = .next v ∧
      AgreeUnused (rd :: known) s u t v := by
  have ⟨x, f, hu, _⟩ := agreeOn_iff.1 h
  rcases noteOfFields_cases name oct with hnone | hrest | hname
  · rw [Instr.wellFormed, Instr.illFormed?, hnone] at hwf
    cases hwf
  · exact ⟨_, _, exec_nres_of_rest hrest rd s, exec_nres_of_rest hrest rd u, h.writeX rd 0⟩
  · obtain ⟨htv, _⟩ := hc _ (noteOfFields_tone hname oct)
    have hread := hinv.read_table htv hname (octaveIndex_lt hinv.legal oct.toInt)
    exact ⟨_, _, exec_nres_of_tone hinv.legal hname hread rd,
      exec_nres_of_tone (s := u) (hu ▸ hinv.legal) hname (hu ▸ hread) rd, h.writeX rd _⟩

/-- A calculation reads only its known source register. -/
theorem exec_pcalc_agree {rs : Reg} (h : AgreeOn known s u) (hrs : rs ∈ known) :
    ∃ t v, exec (.pcalc rs) s = .next t ∧ exec (.pcalc rs) u = .next v ∧ AgreeUnused known s u t v := by
  have ⟨x, f, hu, _⟩ := agreeOn_iff.1 h
  have hread : u.readX rs = s.readX rs := h.readX hrs
  have hcfg : u.cfg = s.cfg := (congrArg State.cfg hu :)
  rcases exec_pcalc_cases rs s with ⟨hzero, hs⟩ | ⟨hne, hs⟩ <;>
    rcases exec_pcalc_cases rs u with ⟨hzero', hu'⟩ | ⟨hne', hu'⟩
  · exact ⟨_, _, hs, hu', (h.map (op := State.silence) s.silence_withUnknown rfl rfl).respond 0 _⟩
  · exact absurd (hread.trans hzero) hne'
  · exact absurd (hread.symm.trans hzero') hne
  · rw [hread, hcfg] at hu'
    exact ⟨_, _, hs, hu', (h.map (op := fun s' => s'.loadPeriod _) (s.loadPeriod_withUnknown · · _) rfl rfl).respond 0 _⟩

/-- A copied control register reads the same in both states. -/
theorem exec_rdcsr_agree {n : BitVec 8} (h : AgreeOn known s u) (rd : Reg) (hwf : (Instr.rdcsr rd n).wellFormed) :
    ∃ t v, exec (.rdcsr rd n) s = .next t ∧ exec (.rdcsr rd n) u = .next v ∧ AgreeUnused (rd :: known) s u t v := by
  have ⟨x, f, hu, _⟩ := agreeOn_iff.1 h
  cases hn : csrOfNumber n with
  | none =>
    rw [Instr.wellFormed, Instr.illFormed?, hn] at hwf
    cases hwf
  | some c =>
    have hread : u.readCsr c = s.readCsr c := hu ▸ s.readCsr_withUnknown x f c
    refine ⟨_, _, exec_rdcsr_of_assigned hn rd s, exec_rdcsr_of_assigned hn rd u, ?_⟩
    rw [hread]
    exact h.writeX rd _

/-- Within the contract a command completes alike in both states and makes its destination known. -/
theorem exec_agree {i : Instr} (hwf : i.wellFormed) (hinv : Inv s)
    (h : AgreeOn known s u) (hc : CommandInContract s known i) :
    ∃ t v, exec i s = .next t ∧ exec i u = .next v ∧ AgreeUnused (destination i ++ known) s u t v := by
  cases i with
  | nop => exact ⟨_, _, exec_nop s, exec_nop u, (h.map (op := id) (fun _ _ => rfl) rfl rfl).respond 0 []⟩
  | ldh rd imm => exact ⟨_, _, exec_ldh rd imm s, exec_ldh rd imm u, h.writeX rd _⟩
  | ldl rd imm =>
    have hread : u.readX rd = s.readX rd := h.readX hc
    refine ⟨_, _, exec_ldl rd imm s, exec_ldl rd imm u, ?_⟩
    rw [hread]
    exact h.writeX rd _
  | rdx rs =>
    have hread : u.readX rs = s.readX rs := h.readX hc
    refine ⟨_, _, exec_rdx rs s, exec_rdx rs u, ?_⟩
    rw [hread]
    exact (h.map (op := id) (fun _ _ => rfl) rfl rfl).respond _ []
  | rdcsr rd n => exact exec_rdcsr_agree h rd hwf
  | ftbuild rs =>
    have hread : u.readX rs = s.readX rs := h.readX hc.1
    refine ⟨_, _, exec_ftbuild rs s, exec_ftbuild rs u, ?_⟩
    rw [hread]
    exact (h.map (op := fun s' => s'.buildTable (s.readX rs)) (s.buildTable_withUnknown · · _) rfl rfl).respond 0 []
  | nres rd name oct => exact exec_nres_agree hinv h rd hwf hc
  | pcalc rs => exact exec_pcalc_agree h hc
  | qinit a b =>
    exact ⟨_, _, exec_qinit a b s, exec_qinit a b u,
      (h.map (op := fun s' => s'.initDecoder a b) (s.initDecoder_withUnknown · · a b) rfl rfl).respond 0 []⟩
  | qatt d handle =>
    exact ⟨_, _, exec_qatt d handle s, exec_qatt d handle u,
      (h.map (op := fun s' => s'.setSlot d _) (s.setSlot_withUnknown · · d _) (by simp) (by simp)).respond 0 []⟩
  | qen =>
    exact ⟨_, _, exec_qen s, exec_qen u,
      (h.map (op := State.enableDecoder) s.enableDecoder_withUnknown (by simp) (by simp)).respond 0 []⟩
  | qdis =>
    exact ⟨_, _, exec_qdis s, exec_qdis u,
      (h.map (op := State.disableDecoder) s.disableDecoder_withUnknown rfl rfl).respond 0 []⟩

end Command

/-! ## A step within the contract -/

section Input
variable {known : List Reg} {s u : State}

theorem State.decodeSample_x (s : State) (a b : Bool) : (s.decodeSample a b).x = s.x := by
  unfold State.decodeSample
  split <;> rfl

/-- A tick of an enabled decoder on pins that exist samples the same levels in both states. -/
theorem State.tickStep_agree (h : AgreeOn known s u)
    (hc : s.en = true → s.pinExists s.pinA = true ∧ s.pinExists s.pinB = true) :
    AgreeUnused known s u s.tickStep u.tickStep := by
  have ⟨x, f, hu, _⟩ := agreeOn_iff.1 h
  cases hen : s.en with
  | false =>
    rw [State.tickStep_of_disabled hen, State.tickStep_of_disabled (s := u) (hu ▸ hen)]
    exact h.map (op := State.quiet) s.quiet_withUnknown rfl rfl
  | true =>
    obtain ⟨ha, hb⟩ := hc hen
    obtain ⟨_, _, hfree, _⟩ := s.decodeSample_effect (s.din.getLsbD s.pinA.toNat) (s.din.getLsbD s.pinB.toNat)
    rw [State.tickStep_of_pins_exist hen ha hb,
      State.tickStep_of_pins_exist (s := u) (hu ▸ hen) (hu ▸ ha) (hu ▸ hb)]
    have hsample : u.decodeSample (u.din.getLsbD u.pinA.toNat) (u.din.getLsbD u.pinB.toNat) =
        u.decodeSample (s.din.getLsbD s.pinA.toNat) (s.din.getLsbD s.pinB.toNat) := by rw [hu]; rfl
    rw [hsample]
    exact h.map (op := fun s' => s'.decodeSample _ _) (s.decodeSample_withUnknown · · _ _) (s.decodeSample_x _ _) hfree

/-- A reset leaves no known register, and every other field alike. -/
theorem State.resetStep_agree (h : AgreeOn known s u) : AgreeOn [] s.resetStep u.resetStep := by
  obtain ⟨x, f, rfl, _⟩ := agreeOn_iff.1 h
  exact ⟨fun _ hr => absurd hr List.not_mem_nil, rfl⟩

/-- What the contract asks of a command does not depend on the waiting inputs. -/
theorem CommandInContract.of_inputs {i : Instr} (h : CommandInContract s known i) (rest : List Input) :
    CommandInContract { s with inputs := rest } known i := by
  cases i <;> exact h

/-- Settles O60: each kind of input does the same to both states. -/
theorem contractUsesNoFreeValue : Obligations.ContractUsesNoFreeValue := by
  intro s u i rest known hinv hin hc h
  have ⟨x, f, hu, _⟩ := agreeOn_iff.1 h
  have hin' : u.inputs = i :: rest := hu ▸ hin
  have hinv' : Inv { s with inputs := rest } := hinv.of_invView_eq rfl
  have h' := h.with_inputs rest
  cases i with
  | rst => exact ⟨_, _, step_rst hin, step_rst hin', State.resetStep_agree h', fun hne => absurd rfl hne⟩
  | tick =>
    obtain ⟨hagree, hfree⟩ := State.tickStep_agree h' hc
    exact ⟨_, _, step_tick hin, step_tick hin', hagree, fun _ => hfree⟩
  | pins levels =>
    obtain ⟨hagree, hfree⟩ := h'.map (op := fun s' => s'.setPins levels) (State.setPins_withUnknown _ · · levels) rfl rfl
    exact ⟨_, _, step_pins hin, step_pins hin', hagree, fun _ => hfree⟩
  | cmd w =>
    cases hd : decode w with
    | error e =>
      obtain ⟨hagree, hfree⟩ := h'.map (op := State.illegalCommand) (State.illegalCommand_withUnknown _) rfl rfl
      refine ⟨_, _, step_illegal hin hd, step_illegal hin' hd, ?_, fun _ => hfree⟩
      simpa only [knownAfter, hd] using hagree
    | ok i =>
      obtain ⟨t, v, ht, hv, hagree, hfree⟩ := exec_agree (decode_ok hd).1 hinv' h' ((hc i hd).of_inputs rest)
      refine ⟨t, v, (step_cmd hin hd).trans ht, (step_cmd hin' hd).trans hv, ?_, fun _ => hfree⟩
      simpa only [knownAfter, hd] using hagree

end Input

end Sys2Proof.Machine

/-! SUPPORT. Proofs about the values of the frequency table and of the period: that entries rise in index order, where they
may be relied on, how near they are to the ideal pitch, what a tone resolves to, and the order and the accuracy of the
period (spec/41_frequency_table.md R130 to R134, R145; 42_period_calculator.md R161, R168, R169). -/
namespace Sys2Proof.Machine

/-! ## The order of the entries (R61) -/

theorem rom_le_succ : ∀ s < 11, rom s ≤ rom (s + 1) := by decide

/-- Within an octave the ratio rises and the shift is the same. -/
theorem entryValue_le_next_semitone (p : Params) (ref : Word) {s : Nat} (hs : s < 11) (o : Nat) :
    entryValue p ref s o ≤ entryValue p ref (s + 1) o := by
  have hrom := rom_le_succ s hs
  exact Nat.div_le_div_right (Nat.add_le_add_right (Nat.mul_le_mul_left _ hrom) _)

/-- From the last semitone to the next octave the shift falls by one, and twice the first ratio is above the last. -/
theorem entryValue_le_next_octave {p : Params} (h : p.legal) (ref : Word) {o : Nat} (ho : o + 1 < p.nOct) :
    entryValue p ref 11 o ≤ entryValue p ref 0 (o + 1) := by
  obtain ⟨⟨_, hoct⟩, _⟩ := h
  obtain ⟨m, hm⟩ : ∃ m, 30 + p.octShift - (o + 1) = m + 1 := ⟨28 + p.octShift - o, by omega⟩
  have hm' : 30 + p.octShift - o = m + 2 := by omega
  have hrom : rom 11 ≤ 2 * rom 0 := by decide
  have hprod : ref.toNat * rom 11 ≤ 2 * (ref.toNat * rom 0) := by nlinarith
  simp only [entryValue, hm, hm', Nat.add_sub_cancel]
  calc (ref.toNat * rom 11 + 2 ^ (m + 1)) / 2 ^ (m + 2)
      ≤ (2 * (ref.toNat * rom 0 + 2 ^ m)) / (2 * 2 ^ (m + 1)) := by
        rw [← pow_succ']
        exact Nat.div_le_div_right (by rw [pow_succ]; omega)
    _ = (ref.toNat * rom 0 + 2 ^ m) / 2 ^ (m + 1) := Nat.mul_div_mul_left _ _ two_pos

/-- The entry of a table index: semitone `k % 12` of octave `k / 12`. -/
def entryAt (p : Params) (ref : Word) (k : Nat) : Nat := entryValue p ref (k % 12) (k / 12)

theorem entryAt_le_succ {p : Params} (h : p.legal) (ref : Word) {k : Nat} (hk : k + 1 < 12 * p.nOct) :
    entryAt p ref k ≤ entryAt p ref (k + 1) := by
  unfold entryAt
  by_cases hlast : k % 12 = 11
  · have hmod : (k + 1) % 12 = 0 := by omega
    have hdiv : (k + 1) / 12 = k / 12 + 1 := by omega
    rw [hmod, hdiv, hlast]
    exact entryValue_le_next_octave h ref (by omega)
  · have hmod : (k + 1) % 12 = k % 12 + 1 := by omega
    have hdiv : (k + 1) / 12 = k / 12 := by omega
    rw [hmod, hdiv]
    exact entryValue_le_next_semitone p ref (by omega) _

theorem entryAt_mono {p : Params} (h : p.legal) (ref : Word) {j k : Nat} (hjk : j ≤ k) (hk : k < 12 * p.nOct) :
    entryAt p ref j ≤ entryAt p ref k := by
  induction k, hjk using Nat.le_induction with
  | base => exact le_rfl
  | succ k hjk ih => exact (ih (by omega)).trans (entryAt_le_succ h ref hk)

/-- A table word in index order. -/
theorem Inv.read_table_index {s : State} (h : Inv s) (htv : s.tv = true) {k : Nat} (hk : k < 12 * s.cfg.nOct) :
    Memory.read s.ft k = some (tableWord s.cfg s.refPitch (k % 12) (k / 12)) := by
  have hread := h.read_table htv (Nat.mod_lt k (by decide)) (Nat.div_lt_of_lt_mul hk)
  rwa [tableIndex, Nat.div_add_mod] at hread

/-- Settles O28: the entries rise, saturation keeps their order, and where they may be relied on the words are the entries. -/
theorem tableRisesInIndexOrder : Obligations.TableRisesInIndexOrder := by
  refine ⟨fun p ref k hlegal hk => ?_, fun s k hinv htv hk hc hc' => ?_⟩
  · rw [storedValue_toNat, storedValue_toNat]
    exact min_le_min_right _ (entryAt_le_succ hlegal ref hk)
  · refine ⟨_, _, hinv.read_table_index htv (by omega), hinv.read_table_index htv hk, ?_⟩
    rw [tableWord_toNat hc, tableWord_toNat hc']
    exact entryAt_le_succ hinv.legal _ hk

/-! ## The accuracy of an entry (R134) -/

/-- A quotient rounded to nearest is within one half of the exact one. -/
theorem abs_round_div_sub_le_half (t d : Nat) (hd : 0 < d) :
    |(((t + d) / (2 * d) : Nat) : ℝ) - (t : ℝ) / (2 * d)| ≤ 1 / 2 := by
  have hd' : (0 : ℝ) < d := by exact_mod_cast hd
  have hmod := Nat.mod_lt (t + d) (show 0 < 2 * d by omega)
  have hdiv : (2 * d : ℝ) * ((t + d) / (2 * d) : Nat) + ((t + d) % (2 * d) : Nat) = t + d := by
    exact_mod_cast Nat.div_add_mod (t + d) (2 * d)
  have hlt : (((t + d) % (2 * d) : Nat) : ℝ) < 2 * d := by exact_mod_cast hmod
  have hnonneg : (0 : ℝ) ≤ ((t + d) % (2 * d) : Nat) := Nat.cast_nonneg _
  rw [show (((t + d) / (2 * d) : Nat) : ℝ) - (t : ℝ) / (2 * d) =
    (d - ((t + d) % (2 * d) : Nat)) / (2 * d) by field_simp; linarith, abs_le]
  constructor
  · rw [le_div_iff₀ (by positivity)]; linarith
  · rw [div_le_iff₀ (by positivity)]; linarith

/-- The rounding of an entry: it is within one half of `ref * rom / 2 ^ 30 * 2 ^ (o - OCT_SHIFT)`. -/
theorem abs_entryValue_sub_le_half {p : Params} (h : p.legal) (ref : Word) (semitone : Nat) {o : Nat} (ho : o < p.nOct) :
    |(entryValue p ref semitone o : ℝ) -
      ref.toNat * rom semitone / 2 ^ 30 * (2 : ℝ) ^ ((o : ℤ) - (p.octShift : ℤ))| ≤ 1 / 2 := by
  obtain ⟨⟨_, hoct⟩, _⟩ := h
  obtain ⟨m, hm⟩ : ∃ m, 30 + p.octShift - o = m + 1 := ⟨29 + p.octShift - o, by omega⟩
  have hshift : (2 : ℝ) ^ ((o : ℤ) - (p.octShift : ℤ)) = 2 ^ 30 / 2 ^ (m + 1) := by
    rw [← zpow_natCast, ← zpow_natCast, ← zpow_sub₀ two_ne_zero]
    congr 1
    omega
  have hround := abs_round_div_sub_le_half (ref.toNat * rom semitone) (2 ^ m) (by positivity)
  have hentry : entryValue p ref semitone o = (ref.toNat * rom semitone + 2 ^ m) / (2 * 2 ^ m) := by
    simp only [entryValue, hm, Nat.add_sub_cancel, pow_succ']
  rw [hentry, hshift]
  convert hround using 3
  push_cast
  field_simp
  ring

/-- The ideal ratio of a semitone and an octave (R130). -/
theorem pow_twelfthRoot (semitone o : Nat) :
    ((2 : ℝ) ^ ((1 : ℝ) / 12)) ^ (semitone + 12 * o) = (2 : ℝ) ^ ((semitone : ℝ) / 12) * 2 ^ o := by
  rw [← Real.rpow_natCast, ← Real.rpow_mul zero_le_two, ← Real.rpow_natCast 2 o, ← Real.rpow_add two_pos]
  congr 1
  push_cast
  ring

/-- R134 in units of the table: rounding costs one half, the ROM's rounding at most one half in `2 ^ 30`. -/
theorem abs_entryValue_sub_ideal_le {p : Params} (h : p.legal) (ref : Word) {semitone o : Nat} (hs : semitone < 12)
    (ho : o < p.nOct) :
    |(entryValue p ref semitone o : ℝ) -
      ref.toNat / 2 ^ p.octShift * ((2 : ℝ) ^ ((1 : ℝ) / 12)) ^ (semitone + 12 * o)| ≤
    1 / 2 + ref.toNat * (2 : ℝ) ^ ((o : ℤ) - (p.octShift : ℤ)) / 2 ^ 31 := by
  have hrom := (romEntriesAreTheRoundedRatios semitone hs).le
  have hentry := abs_entryValue_sub_le_half h ref semitone ho
  have hshift : (2 : ℝ) ^ ((o : ℤ) - (p.octShift : ℤ)) = 2 ^ o / 2 ^ p.octShift := by
    rw [zpow_sub₀ two_ne_zero, zpow_natCast, zpow_natCast]
  set ratio : ℝ := (2 : ℝ) ^ ((semitone : ℝ) / 12)
  set scale : ℝ := (2 : ℝ) ^ ((o : ℤ) - (p.octShift : ℤ))
  have hideal : (ref.toNat : ℝ) / 2 ^ p.octShift * ((2 : ℝ) ^ ((1 : ℝ) / 12)) ^ (semitone + 12 * o) =
      ref.toNat * ratio * scale := by
    rw [pow_twelfthRoot, hshift]
    ring
  have hsplit : (ref.toNat : ℝ) * rom semitone / 2 ^ 30 * scale - ref.toNat * ratio * scale =
      ref.toNat * scale / 2 ^ 30 * (rom semitone - ratio * 2 ^ 30) := by ring
  have hscale : (0 : ℝ) ≤ ref.toNat * scale / 2 ^ 30 := by positivity
  rw [hideal]
  calc |(entryValue p ref semitone o : ℝ) - ref.toNat * ratio * scale|
      ≤ |(entryValue p ref semitone o : ℝ) - ref.toNat * rom semitone / 2 ^ 30 * scale| +
        |ref.toNat * rom semitone / 2 ^ 30 * scale - ref.toNat * ratio * scale| := abs_sub_le _ _ _
    _ ≤ 1 / 2 + ref.toNat * scale / 2 ^ 30 * (1 / 2) := by
        rw [hsplit, abs_mul, abs_of_nonneg hscale]
        exact add_le_add hentry (mul_le_mul_of_nonneg_left hrom hscale)
    _ = 1 / 2 + ref.toNat * scale / 2 ^ 31 := by ring

/-- At and above the reference octave the tonic is the reference pitch shifted left: the division has no remainder. -/
theorem entryValue_tonic {p : Params} (h : p.legal) (ref : Word) {o : Nat} (ho : o < p.nOct) (hshift : p.octShift ≤ o) :
    entryValue p ref 0 o = ref.toNat * 2 ^ (o - p.octShift) := by
  obtain ⟨⟨_, hoct⟩, _⟩ := h
  obtain ⟨m, hm⟩ : ∃ m, 30 + p.octShift - o = m + 1 := ⟨29 + p.octShift - o, by omega⟩
  have hrom : rom 0 = 2 ^ (o - p.octShift) * 2 ^ (m + 1) := by
    rw [← pow_add, show o - p.octShift + (m + 1) = 30 by omega]
    rfl
  have hhalf : 2 ^ m < 2 ^ (m + 1) := Nat.pow_lt_pow_right one_lt_two (Nat.lt_succ_self m)
  simp only [entryValue, hm, Nat.add_sub_cancel]
  rw [hrom, ← Nat.mul_assoc, Nat.add_comm, Nat.add_mul_div_right _ _ (by positivity), Nat.div_eq_of_lt hhalf, Nat.zero_add]

/-- Settles O27: the bound of the entry divided by the 65536 units of a Hz. -/
theorem storedValueIsNearTheIdealPitch : Obligations.StoredValueIsNearTheIdealPitch := by
  intro p ref semitone o hlegal hs ho hlt
  have hstored : (storedValue p ref semitone o).toNat = entryValue p ref semitone o := by
    rw [storedValue_toNat]
    omega
  rw [hstored]
  refine ⟨?_, ?_⟩
  · set ideal : ℝ := ((2 : ℝ) ^ ((1 : ℝ) / 12)) ^ (semitone + 12 * o)
    calc |(entryValue p ref semitone o : ℝ) / 65536 - ref.toNat / 65536 / 2 ^ p.octShift * ideal|
        = |((entryValue p ref semitone o : ℝ) - ref.toNat / 2 ^ p.octShift * ideal) / 65536| := by
          congr 1
          ring
      _ = |(entryValue p ref semitone o : ℝ) - ref.toNat / 2 ^ p.octShift * ideal| / 65536 := by
          rw [abs_div, abs_of_pos (by norm_num : (0 : ℝ) < 65536)]
      _ ≤ (1 / 2 + ref.toNat * (2 : ℝ) ^ ((o : ℤ) - (p.octShift : ℤ)) / 2 ^ 31) / 65536 :=
          div_le_div_of_nonneg_right (abs_entryValue_sub_ideal_le hlegal ref hs ho) (by norm_num)
      _ = 1 / 2 ^ 17 + ref.toNat / 65536 * (2 : ℝ) ^ ((o : ℤ) - (p.octShift : ℤ)) / 2 ^ 31 := by ring
  · rintro rfl hshift
    exact entryValue_tonic hlegal ref ho hshift

/-! ## The pitches of the contract -/

/-- An entry of the table in index order. -/
theorem entryAt_index (p : Params) (ref : Word) {semitone o : Nat} (hs : semitone < 12) :
    entryAt p ref (12 * o + semitone) = entryValue p ref semitone o := by
  have hmod : (12 * o + semitone) % 12 = semitone := by omega
  have hdiv : (12 * o + semitone) / 12 = o := by omega
  rw [entryAt, hmod, hdiv]

/-- Since the entries rise, a pitch is in the contract when its first entry does not round to 0 and its last does not
saturate. -/
theorem pitchInContract_iff {p : Params} (h : p.legal) (ref : Word) :
    PitchInContract p ref ↔ 1 ≤ entryValue p ref 0 0 ∧ entryValue p ref 11 (p.nOct - 1) < 2 ^ 32 := by
  obtain ⟨hoct, _⟩ := h.1
  constructor
  · intro hc
    obtain ⟨hfirst, _⟩ := hc 0 (by omega) 0 (by decide)
    obtain ⟨_, hlast⟩ := hc (p.nOct - 1) (by omega) 11 (by decide)
    exact ⟨hfirst, hlast⟩
  · rintro ⟨hfirst, hlast⟩ o ho semitone hs
    rw [← entryAt_index p ref (by decide)] at hfirst hlast
    rw [EntryInContract, ← entryAt_index p ref hs]
    exact ⟨hfirst.trans (entryAt_mono h ref (by omega) (by omega)),
      (entryAt_mono h ref (by omega) (by omega)).trans_lt hlast⟩

/-- Settles O33: the first entry of `CFG-REF` is `(ref + 4) / 8`, and its last bounds the pitch from above. -/
theorem cfgRefPitchRange : Obligations.CfgRefPitchRange := by
  intro ref
  rw [pitchInContract_iff (by decide)]
  have hfirst : entryValue Config.cfgRef ref 0 0 = (ref.toNat * 0x40000000 + 2 ^ 32) / 2 ^ 33 := rfl
  have hlast : entryValue Config.cfgRef ref 11 (Config.cfgRef.nOct - 1) =
      (ref.toNat * 0x78D0DF9C + 2 ^ 25) / 2 ^ 26 := rfl
  rw [hfirst, hlast]
  omega

/-! ## Resolving a tone -/

theorem word_ne_zero_iff {v : Word} : v ≠ 0 ↔ 0 < v.toNat := by
  rw [Nat.pos_iff_ne_zero, Ne, Ne, ← BitVec.toNat_inj, BitVec.ofNat_eq_ofNat, BitVec.toNat_zero]

/-- Settles O32: the word a tone resolves to is an entry that does not round to 0. -/
theorem tonesAreNeverSilentInContract : Obligations.TonesAreNeverSilentInContract := by
  intro rd name oct s hinv htv hpitch hname
  have hlt : name.toNat < 12 := by omega
  have ho := octaveIndex_lt hinv.legal oct.toInt
  have hc := hpitch _ ho _ hlt
  refine ⟨_, exec_nres_of_tone hinv.legal hlt (hinv.read_table htv hlt ho) rd, ?_⟩
  rw [State.readX_respond, State.readX_writeX_same, word_ne_zero_iff, tableWord_toNat hc]
  exact hc.1

/-- A word of the table that nothing has written reads as the next free value. -/
theorem State.memRead_of_unwritten {s : State} {k : Nat} (hk : k < tableSize s.cfg) (h : Memory.read s.ft k = none) :
    s.memRead k = .ok (Config.freeWord s.free, { s with free := s.free + 1 }) := by
  obtain ⟨v, t, hread⟩ := State.memRead_of_lt hk
  obtain ⟨_, ⟨hsome, _⟩ | ⟨_, rfl, rfl⟩⟩ := State.memRead_ok hread
  · cases hsome.symm.trans h
  · exact hread

/-- Settles O30: the read draws the free value, and the rest is a register write. -/
theorem nresOfAnUnwrittenWordIsFree : Obligations.NresOfAnUnwrittenWordIsFree := by
  intro rd name oct s hlegal hname hnone
  have hlt : name.toNat < 12 := by omega
  rw [← tableIndex_octaveIndex hlegal] at hnone
  have hread := State.memRead_of_unwritten (tableIndex_lt hlt (octaveIndex_lt hlegal _)) hnone
  have hexec : exec (.nres rd name oct) s =
      .next ((({ s with free := s.free + 1 } : State).writeX rd (Config.freeWord s.free)).respond 0 []) := by
    simp only [exec, execNres, noteOfFields_tone hlt, hread]
  obtain ⟨hvalue, _, hframe, htable⟩ :=
    ({ s with free := s.free + 1 } : State).writeX_respond_effect rd (Config.freeWord s.free)
  exact ⟨_, hexec, hvalue, rfl, rfl, rfl, hframe, htable⟩

/-! ## The period -/

/-- A calculation of a frequency leaves the clamped quotient in `PERIOD` (R162, R165). -/
theorem exec_pcalc_period {s : State} (h : s.cfg.legal) {rs : Reg} (hne : s.readX rs ≠ 0) :
    ∃ t, exec (.pcalc rs) s = .next t ∧ (t.readCsr .period).toNat = periodOf s.cfg (s.readX rs) := by
  rcases exec_pcalc_cases rs s with ⟨hzero, _⟩ | ⟨_, hexec⟩
  · exact absurd hzero hne
  · exact ⟨_, hexec, periodOf_toNat h _⟩

/-- A larger divisor gives a smaller quotient, and the clamp keeps the order (R168). -/
theorem periodOf_antitone {p : Params} (h : p.legal) {f g : Word} (hf : f ≠ 0) (hfg : f.toNat ≤ g.toNat) :
    periodOf p g ≤ periodOf p f := by
  obtain ⟨_, _, _, _, ⟨hpresc, _⟩, _⟩ := h
  have hquotient : periodQuotient p g ≤ periodQuotient p f :=
    Nat.div_le_div_left (Nat.mul_le_mul_left _ hfg) (Nat.mul_pos hpresc (word_ne_zero_iff.1 hf))
  exact min_le_min_right _ (max_le_max_right _ hquotient)

/-- Settles O35: both periods are the clamped quotients. -/
theorem periodNeverRisesWithFrequency : Obligations.PeriodNeverRisesWithFrequency := by
  intro r₁ r₂ s t₁ t₂ hlegal hne hle h₁ h₂
  have hne' : s.readX r₂ ≠ 0 := word_ne_zero_iff.2 ((word_ne_zero_iff.1 hne).trans_le hle)
  obtain ⟨u₁, hu₁, hperiod₁⟩ := exec_pcalc_period hlegal hne
  obtain ⟨u₂, hu₂, hperiod₂⟩ := exec_pcalc_period hlegal hne'
  cases hu₁.symm.trans h₁
  cases hu₂.symm.trans h₂
  rw [hperiod₁, hperiod₂]
  exact periodOf_antitone hlegal hne hle

/-- A quotient in the timer's range, ends included, is not clamped. -/
theorem periodOf_of_in_range {p : Params} {f : Word} (hlo : p.perMin ≤ periodQuotient p f)
    (hhi : periodQuotient p f ≤ p.perMax) : periodOf p f = periodQuotient p f := by
  rw [periodOf, max_eq_left hlo, min_eq_left hhi]

/-- Settles O36: the period is the unclamped quotient, and the bounds are those of a division with remainder. -/
theorem toneIsNearTheRequestedFrequency : Obligations.ToneIsNearTheRequestedFrequency := by
  intro rs s hlegal hne hlo hhi
  obtain ⟨t, hexec, hperiod⟩ := exec_pcalc_period hlegal hne
  refine ⟨t, hexec, ?_⟩
  obtain ⟨_, _, _, _, ⟨hpresc, _⟩, _⟩ := hlegal
  rw [hperiod, periodOf_of_in_range hlo hhi, periodQuotient, Nat.mul_comm (s.readX rs).toNat]
  exact ⟨Nat.mul_div_le _ _, Nat.lt_mul_div_succ _ (Nat.mul_pos hpresc (word_ne_zero_iff.1 hne))⟩

end Sys2Proof.Machine

/-! SUPPORT. Proofs about runs of the quadrature decoder: what one sample can do to the path, what a rotation needs, and runs
over ticks and pin changes (spec/43_quadrature_decoder.md R182, R193, R196, R201, R202). -/
namespace Sys2Proof.Machine

/-! ## Paths (R202 (c)) -/

/-- A command holds the decoder's state or puts it at `Start`: `QINIT`, and `QEN` of a disabled decoder. -/
theorem exec_qs_cases {i : Instr} {s t : State} (h : exec i s = .next t) : t.qs = s.qs ∨ t.qs = .start := by
  rcases exec_cases h with ⟨_, rfl, _⟩ | ⟨_, _, rfl, _⟩ | ⟨rfl, _⟩ | ⟨_, _, rfl⟩ | ⟨_, _, _, _, _, _, _, _, _, _, rfl⟩ |
    ⟨_, _, _, rfl⟩ | ⟨_, _, _, _, _, rfl⟩ | ⟨_, _, _, rfl⟩ | ⟨_, _, _, rfl⟩ | ⟨_, rfl⟩ | ⟨_, rfl⟩
  iterate 7 exact .inl rfl
  · exact .inr rfl
  · exact .inl (by simp)
  · rw [State.respond_qs, State.enableDecoder_qs]
    split
    · exact .inl rfl
    · exact .inr rfl
  · exact .inl rfl

/-- A tick holds the decoder's state or moves it by one cell of R183. -/
theorem State.tickStep_qs_cases (s : State) : s.tickStep.qs = s.qs ∨ ∃ a b, s.tickStep.qs = (qnext s.qs a b).1 := by
  rcases State.tickStep_cases s with ⟨_, ht⟩ | ⟨_, _, hq, ht⟩ | ⟨_, _, _, hq, ht⟩ <;> rw [ht]
  · exact .inl rfl
  · exact .inr ⟨_, _, (congrArg Prod.fst hq).symm⟩
  · exact .inr ⟨_, _, (congrArg Prod.fst hq).symm⟩

@[simp] theorem State.tickStep_inputs (s : State) : s.tickStep.inputs = s.inputs := by
  obtain ⟨_, _, _, _, _, hinputs⟩ := s.tickStep_unchangedBut
  exact hinputs

/-- What a step can do to the decoder's state: hold it, return to `Start`, or move by one cell of R183. -/
theorem step_qs_cases {s t : State} (h : step s = .next t) :
    t.qs = s.qs ∨ t.qs = .start ∨ ∃ a b, t.qs = (qnext s.qs a b).1 := by
  rcases step_cases s with ⟨_, hs⟩ | ⟨_, _, hs⟩ | ⟨rest, _, hs⟩ | ⟨_, _, _, hs⟩ | ⟨_, _, _, _, _, hs⟩ |
    ⟨_, rest, i, _, hd, hs⟩
  · cases hs.symm.trans h
    exact .inl rfl
  · cases hs.symm.trans h
    exact .inr (.inl rfl)
  · cases hs.symm.trans h
    exact (State.tickStep_qs_cases { s with inputs := rest }).imp_right .inr
  · cases hs.symm.trans h
    exact .inl rfl
  · cases hs.symm.trans h
    exact .inl rfl
  · exact (exec_qs_cases (hs.symm.trans h)).imp_right .inl

/-- No cell leads from one path to the other. -/
theorem qnext_stays_on_path (q : QState) (a b : Bool) :
    (q.onCw = true → (qnext q a b).1.onCcw = false) ∧ (q.onCcw = true → (qnext q a b).1.onCw = false) := by
  cases q <;> cases a <;> cases b <;> decide

theorem not_onCw_and_onCcw (q : QState) : (q.onCw = true → q.onCcw = false) ∧ (q.onCcw = true → q.onCw = false) := by
  cases q <;> decide

/-- Settles O45: holding, returning to `Start` and every cell stay on the path or leave it for `Start`. -/
theorem pathsMeetOnlyAtStart : Obligations.PathsMeetOnlyAtStart := by
  intro s t h
  rcases step_qs_cases h with hq | hq | ⟨a, b, hq⟩ <;> rw [hq]
  · exact not_onCw_and_onCcw s.qs
  · exact ⟨fun _ => rfl, fun _ => rfl⟩
  · exact qnext_stays_on_path s.qs a b

/-! ## What a commit needs (R202 (b), (d)) -/

/-- The patterns of a rotation's three states, in order (R181). -/
def turnPatterns : Dir → List (Bool × Bool)
  | .cw => [(true, false), (true, true), (false, true)]
  | .ccw => [(false, true), (true, true), (true, false)]

/-- The first state of a rotation (R180). -/
def firstState : Dir → QState
  | .cw => .cw1
  | .ccw => .ccw1

/-- The second state of a rotation (R180). -/
def secondState : Dir → QState
  | .cw => .cw2
  | .ccw => .ccw2

/-- The three states of a rotation, in order; the third is the one that commits. -/
def turnStates (d : Dir) : List QState := [firstState d, secondState d, commitState d]

/-- How many states of a rotation in the direction `d` lie behind the decoder; none on the other path. -/
def progress (d : Dir) (q : QState) : Option Nat :=
  if q = .start then some 0 else (turnStates d).findIdx? (· = q) |>.map (· + 1)

/-- A sample that does not end at `Start` either makes no progress in the direction, or shows the next pattern of the
rotation and enters its next state. -/
theorem progress_qnext (d : Dir) (q : QState) (a b : Bool) (hstart : (qnext q a b).1 ≠ .start) :
    ∀ m ∈ progress d (qnext q a b).1, ∃ n ∈ progress d q, m ≤ n ∨
      ((turnPatterns d).drop n = (a, b) :: (turnPatterns d).drop m ∧
        (turnStates d).drop n = (qnext q a b).1 :: (turnStates d).drop m) := by
  revert hstart
  cases d <;> cases q <;> cases a <;> cases b <;> decide

/-- A sequence of samples off `Start` that ends where `d` commits shows the rest of the rotation's patterns and visits the
rest of its states. -/
theorem rest_of_turn_sublist {d : Dir} {q : QState} {ps : List (Bool × Bool)} (hoff : StaysOffStart q ps)
    (hend : decoderRun q ps = commitState d) : ∃ n ∈ progress d q,
      ((turnPatterns d).drop n).Sublist ps ∧ ((turnStates d).drop n).Sublist (decoderTrace q ps) := by
  induction ps generalizing q with
  | nil =>
    obtain rfl : q = commitState d := hend
    exact ⟨3, by cases d <;> rfl, by cases d <;> exact .slnil, by cases d <;> exact .slnil⟩
  | cons p ps ih =>
    obtain ⟨hfirst, hrest⟩ := not_or.1 (List.mem_cons.not.1 hoff)
    obtain ⟨m, hm, hpatterns, hstates⟩ := ih hrest hend
    obtain ⟨n, hn, hle | ⟨hp, hs⟩⟩ := progress_qnext d q p.1 p.2 (Ne.symm hfirst) m hm
    · exact ⟨n, hn, .cons _ ((List.drop_sublist_drop_left _ hle).trans hpatterns),
        .cons _ ((List.drop_sublist_drop_left _ hle).trans hstates)⟩
    · exact ⟨n, hn, hp ▸ hpatterns.cons_cons p, hs ▸ hstates.cons_cons _⟩

/-- A commit after samples off `Start` needs the whole rotation in its direction: at `Start` all of it is still to come. -/
theorem turn_sublist_of_commit {d : Dir} {ps : List (Bool × Bool)} {a b : Bool} (hoff : StaysOffStart .start ps)
    (hcommit : (qnext (decoderRun .start ps) a b).2 = some d) :
    (turnPatterns d).Sublist ps ∧ (a, b) = (false, false) ∧ (turnStates d).Sublist (decoderTrace .start ps) := by
  obtain ⟨rfl, rfl, _⟩ := qnext_commit hcommit
  obtain ⟨hend, _⟩ := (qnext_commit_iff ..).1 hcommit
  obtain ⟨n, hn, hpatterns, hstates⟩ := rest_of_turn_sublist hoff hend
  obtain rfl : 0 = n := Option.some.inj hn
  exact ⟨hpatterns, rfl, hstates⟩

/-- Settles O46: the two directions of `turn_sublist_of_commit`. -/
theorem commitNeedsTheFullRotation : Obligations.CommitNeedsTheFullRotation :=
  fun _ _ _ hoff => ⟨turn_sublist_of_commit (d := .cw) hoff, turn_sublist_of_commit (d := .ccw) hoff⟩

/-! ## Runs over ticks and pin changes -/

/-- An input that is a tick or a change of the pins. -/
def IsTickOrPins (i : Input) : Prop := i = .tick ∨ ∃ levels, i = .pins levels

/-- What every tick and every change of the pins keeps, and what does not speak of the inputs, is kept by a run over them,
which completes. -/
theorem run_keeps {P : State → Prop} (htick : ∀ u, P u → P u.tickStep) (hpins : ∀ u levels, P u → P (u.setPins levels))
    (hinputs : ∀ u rest, P u → P { u with inputs := rest }) {is rest : List Input} {s : State}
    (his : ∀ i ∈ is, IsTickOrPins i) (hin : s.inputs = is ++ rest) (hs : P s) :
    ∃ t, core.run is.length s = .next t ∧ t.inputs = rest ∧ P t := by
  induction is generalizing s with
  | nil => exact ⟨s, run_zero s, hin, hs⟩
  | cons i is ih =>
    obtain ⟨hi, hrest⟩ := List.forall_mem_cons.1 his
    have hs' := hinputs s (is ++ rest) hs
    rcases hi with rfl | ⟨levels, rfl⟩
    · obtain ⟨t, hrun, ht⟩ := ih hrest (by simp) (htick _ hs')
      exact ⟨t, (run_succ (step_tick hin) _).trans hrun, ht⟩
    · obtain ⟨t, hrun, ht⟩ := ih hrest (by simp) (hpins _ levels hs')
      exact ⟨t, (run_succ (step_pins hin) _).trans hrun, ht⟩

/-- Settles O49: a disabled decoder's tick is `quiet`, and the pins are none of its state. -/
theorem disabledDecoderIsFrozen : Obligations.DisabledDecoderIsFrozen := by
  intro is rest s his hin hdis
  refine run_keeps (P := fun u => u.flag .en = false ∧ ∀ c ∈ [Csr.tc, .dir, .qstate], u.readCsr c = s.readCsr c)
    ?_ ?_ ?_ his hin ⟨hdis, fun _ _ => rfl⟩
  · rintro u ⟨hen, hcsr⟩
    rw [State.tickStep_of_disabled hen]
    exact ⟨hen, fun c hc => (u.readCsr_quiet c).trans (hcsr c hc)⟩
  · rintro u levels ⟨hen, hcsr⟩
    exact ⟨hen, fun c hc => (u.readCsr_setPins levels c).trans (hcsr c hc)⟩
  · rintro u rest ⟨hen, hcsr⟩
    exact ⟨hen, hcsr⟩

/-- The two selectors on one pin sample one bit, and so a tick never leaves `Start` (R193). -/
theorem State.tickStep_of_one_pin {u : State} (hpin : u.pinA = u.pinB) (hstart : u.qs = .start) :
    u.tickStep.pinA = u.tickStep.pinB ∧ u.tickStep.qs = .start ∧ u.tickStep.tc = u.tc := by
  have hcell : qnext u.qs (u.samplePin u.pinA) (u.samplePin u.pinB) = (.start, none) := by
    rw [hpin, hstart, qnext_same_sample_at_start]
  rcases State.tickStep_cases u with ⟨_, ht⟩ | ⟨_, q, hq, ht⟩ | ⟨_, q, d, hq, ht⟩
  · rw [ht]
    exact ⟨hpin, hstart, rfl⟩
  · cases hcell.symm.trans hq
    rw [ht]
    exact ⟨hpin, rfl, rfl⟩
  · cases hcell.symm.trans hq

/-- Settles O50: one pin stays one pin, and keeps the decoder at `Start`. -/
theorem onePinNeverLeavesStart : Obligations.OnePinNeverLeavesStart := by
  intro is rest s his hin hpin hstart
  obtain ⟨t, hrun, hrest, _, hend⟩ :=
    run_keeps (P := fun u => u.pinA = u.pinB ∧ u.qs = .start ∧ u.tc = s.tc)
      (fun u ⟨hpin, hqs, htc⟩ => by
        obtain ⟨hpin', hqs', htc'⟩ := State.tickStep_of_one_pin hpin hqs
        exact ⟨hpin', hqs', htc'.trans htc⟩)
      (fun _ _ h => h) (fun _ _ h => h) his hin ⟨hpin, hstart, rfl⟩
  exact ⟨t, hrun, hrest, hend⟩

/-- How far along a rotation, in either direction, the state is. -/
def QState.depth : QState → Nat
  | .start => 0
  | .cw1 | .ccw1 => 1
  | .cw2 | .ccw2 => 2
  | .cw3 | .ccw3 => 3

theorem depth_qnext_le (q : QState) (a b : Bool) : (qnext q a b).1.depth ≤ q.depth + 1 := by
  cases q <;> cases a <;> cases b <;> decide

theorem depth_commitState (d : Dir) : (commitState d).depth = 3 := by cases d <;> rfl

/-- A tick goes at most one state further along a rotation, and one that changes the count starts from the third state. -/
theorem State.tickStep_depth (s : State) :
    s.tickStep.qs.depth ≤ s.qs.depth + 1 ∧ (s.tickStep.tc ≠ s.tc → s.qs.depth = 3) := by
  refine ⟨?_, fun hne => ?_⟩
  · rcases s.tickStep_qs_cases with hq | ⟨a, b, hq⟩ <;> rw [hq]
    · exact Nat.le_succ _
    · exact depth_qnext_le s.qs a b
  · obtain ⟨d, hqs, _⟩ := State.tickStep_of_count_changed (.inl hne)
    rw [hqs, depth_commitState]

/-- A run over ticks and pin changes that changes the count ticks for every state of the rotation not yet behind it, and
once more to commit. -/
theorem four_le_ticks_add_depth {is : List Input} {s t : State} (his : ∀ i ∈ is, IsTickOrPins i) (hin : s.inputs = is)
    (hrun : core.run is.length s = .next t) (hne : t.tc ≠ s.tc) : 4 ≤ is.count .tick + s.qs.depth := by
  induction is generalizing s with
  | nil =>
    cases hrun
    exact absurd rfl hne
  | cons i is ih =>
    obtain ⟨hi, hrest⟩ := List.forall_mem_cons.1 his
    rcases hi with rfl | ⟨levels, rfl⟩
    · obtain ⟨hdepth, hcommit⟩ := State.tickStep_depth { s with inputs := is }
      change _ ≤ s.qs.depth + 1 at hdepth
      have hcount : (Input.tick :: is).count .tick = is.count .tick + 1 := List.count_cons_self
      have hrun' := (run_succ (step_tick hin) is.length).symm.trans hrun
      by_cases hsame : (State.tickStep { s with inputs := is }).tc = s.tc
      · have hticks := ih hrest (by simp) hrun' (by rwa [hsame])
        omega
      · have hthird : s.qs.depth = 3 := hcommit hsame
        omega
    · have hcount : (Input.pins levels :: is).count .tick = is.count .tick := List.count_cons_of_ne (by simp)
      rw [hcount]
      exact ih (s := ({ s with inputs := is } : State).setPins levels) hrest rfl
        ((run_succ (step_pins hin) is.length).symm.trans hrun) hne

/-- Settles O47: at `Start` nothing of the rotation is behind the decoder. -/
theorem commitNeedsFourTicks : Obligations.CommitNeedsFourTicks := by
  intro is s t his hstart hin hrun hne
  have hticks := four_le_ticks_add_depth his hin hrun hne
  rwa [hstart] at hticks

/-! ## The exact rotation (R202 (e)) -/

/-- The decoder is enabled on pins that exist. -/
def State.Decoding (s : State) : Prop := s.en = true ∧ s.pinA.toNat < s.cfg.npin ∧ s.pinB.toNat < s.cfg.npin

/-- The state after a sample that does not commit: the levels, the waiting inputs, the decoder's state and the outputs. -/
def State.afterMove (s : State) (levels : Word) (q : QState) (rest : List Input) : State :=
  { s with din := levels, inputs := rest, qs := q, rsp := none, events := [] }

/-- The state after a sample that commits. -/
def State.afterCommit (s : State) (levels : Word) (d : Dir) (rest : List Input) : State :=
  { s with din := levels, inputs := rest, qs := .start, tc := countCommit s.tc d, dir := d, rsp := none,
           events := s.callbackEvents d }

section Rotation
variable {s : State} {levels : Word} {a b : Bool} {q : QState} {rest : List Input}

/-- A second move leaves no trace of the first. -/
theorem State.afterMove_afterMove (levels' : Word) (q' : QState) (rest' : List Input) :
    (s.afterMove levels q rest).afterMove levels' q' rest' = s.afterMove levels' q' rest' := rfl

/-- A commit leaves no trace of the move before it. -/
theorem State.afterCommit_afterMove (levels' : Word) (d : Dir) (rest' : List Input) :
    (s.afterMove levels q rest).afterCommit levels' d rest' = s.afterCommit levels' d rest' := by
  cases d <;> rfl

/-- Setting the pins and ticking decodes the pattern the pins show. -/
theorem run_sample (hready : s.Decoding) (hin : s.inputs = .pins levels :: .tick :: rest)
    (hshow : ShowsPattern s levels a b) (n : Nat) :
    core.run (n + 2) s = core.run n ((({ s with inputs := rest } : State).setPins levels).decodeSample a b) := by
  obtain ⟨hen, ha, hb⟩ := hready
  have htick := step_tick_of_enabled (s := ({ s with inputs := .tick :: rest } : State).setPins levels) rfl hen ha hb hshow
  exact (run_succ (step_pins hin) (n + 1)).trans (run_succ htick n)

/-- Setting the pins and ticking at a cell that does not commit. -/
theorem run_sample_of_move (hready : s.Decoding) (hin : s.inputs = .pins levels :: .tick :: rest)
    (hshow : ShowsPattern s levels a b) (hq : qnext s.qs a b = (q, none)) (n : Nat) :
    core.run (n + 2) s = core.run n (s.afterMove levels q rest) := by
  have hmove : (({ s with inputs := rest } : State).setPins levels).decodeSample a b = s.afterMove levels q rest := by
    simp only [State.decodeSample, State.quiet, State.setPins, State.afterMove, hq]
  rw [run_sample hready hin hshow, hmove]

/-- Setting the pins and ticking at a cell that commits. -/
theorem run_sample_of_commit {d : Dir} (hready : s.Decoding) (hin : s.inputs = .pins levels :: .tick :: rest)
    (hshow : ShowsPattern s levels a b) (hq : qnext s.qs a b = (.start, some d)) (n : Nat) :
    core.run (n + 2) s = core.run n (s.afterCommit levels d rest) := by
  have hcommit : (({ s with inputs := rest } : State).setPins levels).decodeSample a b = s.afterCommit levels d rest := by
    simp only [State.decodeSample, State.quiet, State.setPins, State.afterCommit, hq]
    rfl
  rw [run_sample hready hin hshow, hcommit]

/-- The cells of an exact rotation (R185, R190). -/
theorem turn_cells (d : Dir) :
    qnext .start (decide (d = .cw)) (decide (d = .ccw)) = (firstState d, none) ∧
    qnext (firstState d) true true = (secondState d, none) ∧
    qnext (secondState d) (decide (d = .ccw)) (decide (d = .cw)) = (commitState d, none) ∧
    qnext (commitState d) false false = (.start, some d) := by
  cases d <;> decide

/-- The five samples of an exact rotation leave what its commit leaves. -/
theorem run_exact_rotation {l₀ l₁ l₂ l₃ l₄ : Word} {d : Dir} (hready : s.Decoding) (hstart : s.qs = .start)
    (hin : s.inputs = .pins l₀ :: .tick :: .pins l₁ :: .tick :: .pins l₂ :: .tick :: .pins l₃ :: .tick ::
      .pins l₄ :: .tick :: rest)
    (h₀ : ShowsPattern s l₀ false false) (h₁ : ShowsPattern s l₁ (decide (d = .cw)) (decide (d = .ccw)))
    (h₂ : ShowsPattern s l₂ true true) (h₃ : ShowsPattern s l₃ (decide (d = .ccw)) (decide (d = .cw)))
    (h₄ : ShowsPattern s l₄ false false) : core.run 10 s = .next (s.afterCommit l₄ d rest) := by
  have hstay : qnext s.qs false false = (.start, none) := by rw [hstart]; rfl
  obtain ⟨hfirst, hsecond, hthird, hcommit⟩ := turn_cells d
  rw [run_sample_of_move hready hin h₀ hstay,
    run_sample_of_move (s := s.afterMove _ .start _) hready rfl h₁ hfirst, State.afterMove_afterMove,
    run_sample_of_move (s := s.afterMove _ (firstState d) _) hready rfl h₂ hsecond, State.afterMove_afterMove,
    run_sample_of_move (s := s.afterMove _ (secondState d) _) hready rfl h₃ hthird, State.afterMove_afterMove,
    run_sample_of_commit (s := s.afterMove _ (commitState d) _) hready rfl h₄ hcommit, State.afterCommit_afterMove]
  exact run_zero _

end Rotation

/-- Settles O48: what the commit of the rotation leaves. -/
theorem exactRotationCommitsOnce : Obligations.ExactRotationCommitsOnce := by
  intro s rest l₀ l₁ l₂ l₃ l₄ d hen hstart ha hb hin h₀ h₂ h₄ h₁ h₃
  exact ⟨_, run_exact_rotation ⟨hen, ha, hb⟩ hstart hin h₀ h₁ h₂ h₃ h₄, rfl, rfl, by cases d <;> rfl, rfl, rfl⟩

/-! ## Pins that may not exist (U7) -/

/-- The counter of the free values is none of what `UnchangedBut` speaks of. -/
theorem UnchangedBut.with_free {regs : List Reg} {flags : List Flag} {csrs : List Csr} {s t : State}
    (h : UnchangedBut regs flags csrs s t) (n : Nat) : UnchangedBut regs flags csrs s { t with free := n } := by
  obtain ⟨hx, hflag, hcsr, hrest⟩ := h
  refine ⟨fun r hr => ?_, fun f hf => ?_, fun c hc hc' => ?_, hrest⟩
  · rw [← hx r hr]
    cases r <;> rfl
  · rw [← hflag f hf]
    cases f <;> rfl
  · rw [← hcsr c hc hc']
    cases c <;> rfl

/-- Settles O43: the pair of samples is the one the tick takes. -/
theorem absentPinsStillFollowTheTable : Obligations.AbsentPinsStillFollowTheTable := by
  intro s rest hin hen
  have htick : ({ s with inputs := rest } : State).tickStep =
      { ({ s with inputs := rest } : State).decodeSample (s.samplePin s.pinA) (s.samplePin s.pinB) with
        free := s.freeAfterSamples } := if_pos hen
  obtain ⟨hqs, hrsp, _, hframe, htable⟩ :=
    ({ s with inputs := rest } : State).decodeSample_effect (s.samplePin s.pinA) (s.samplePin s.pinB)
  refine ⟨s.samplePin s.pinA, s.samplePin s.pinB, _, (step_tick hin).trans (congrArg Host.Outcome.next htick),
    fun ha => if_pos (decide_eq_true ha), fun hb => if_pos (decide_eq_true hb), fun hpin => by rw [hpin], hqs,
    fun hhold => ?_, fun d hcommit => ?_, hrsp, ?_, htable⟩
  · exact State.decodeSample_count_of_no_commit (s := { s with inputs := rest }) hhold
  · exact State.decodeSample_count_of_commit (s := { s with inputs := rest }) hcommit
  · exact hframe.with_free s.freeAfterSamples

end Sys2Proof.Machine
